-- ==== Sys2Proof/Word.lean ====
section
/-! DEFINITION. The word of the unit: 32 bits, for registers, command words, cells and binary32 values
(10_state section 3, 20_memory R68). -/

namespace Sys2Proof

/-- One 32-bit word: a register, a command, a memory cell, or a binary32 value with its sign in bit 31, its
exponent in bits 30:23 and its fraction in bits 22:0 (20_memory R68). -/
abbrev Word := BitVec 32

end Sys2Proof
end

