-- ==== Sys2Proof/Syntax.lean ====
section
/-! DEFINITION. The commands of the unit, one constructor per row of spec/opcode_table.json (30_encoding R91).
No command carries an operand in its word (R92), so no constructor has a field. -/

namespace Sys2Proof

/-- The fourteen commands of 30_encoding R91. -/
inductive Instr where
  /-- NOP, no operation (46_control R234). -/
  | nop
  /-- CSC_FWD, forward colour conversion (40_colour_pad R110). -/
  | cscFwd
  /-- PAD, add padding (40_colour_pad R114). -/
  | pad
  /-- DWT, decompose (41_wavelet R130). -/
  | dwt
  /-- BLOCK, cut LL into tiles (42_blocker R146). -/
  | block
  /-- PERMGEN, construct the permutation (44_permutation R201). -/
  | permgen
  /-- BEMBED, embed the payload into every block (43_block_codec R170). -/
  | bembed
  /-- REASM, write the tiles back (42_blocker R147). -/
  | reasm
  /-- IDWT, reconstruct (41_wavelet R131). -/
  | idwt
  /-- UNPAD, remove padding (40_colour_pad R115). -/
  | unpad
  /-- CSC_INV, inverse colour conversion (40_colour_pad R111). -/
  | cscInv
  /-- BEXTRACT, read one raw bit from every block (43_block_codec R171). -/
  | bextract
  /-- VOTE, decide every payload bit (45_vote R215). -/
  | vote
  /-- RELEASE, end the run (46_control R235). -/
  | release
  deriving DecidableEq, Repr

end Sys2Proof
end

