-- ==== Sys2Proof/WellFormed.lean ====
section
/-! DEFINITION. What may be written down and what may not: a command word (30_encoding R90, R91, R93), an
instruction term, and the integer parameters of 00_scope R7. -/

namespace Sys2Proof

/-- OPC, bits 7:0 of a command word (30_encoding R90). -/
def opcField (w : Word) : BitVec 8 := w.extractLsb' 0 8

/-- ZERO, bits 31:8 of a command word, which must be 0 (30_encoding R90). -/
def zeroField (w : Word) : BitVec 24 := w.extractLsb' 8 24

/-- The opcodes that stand for a command: 0x00 to 0x0C and 0x0F (30_encoding R91); 0x0D, 0x0E and 0x10 to 0xFF
are illegal (R93). -/
def opcDefined (opc : BitVec 8) : Bool := decide (opc.toNat ≤ 0x0C) || opc == 0x0F#8

/-- A command word that is not illegal by 30_encoding R93. -/
def commandWordOk (w : Word) : Bool := zeroField w == 0#24 && opcDefined (opcField w)

/-- An instruction term is well-formed. No command has an operand field (30_encoding R92), so there is nothing
to check and every term passes. -/
def Instr.wellFormed : Instr → Bool
  | .nop => true
  | .cscFwd => true
  | .pad => true
  | .dwt => true
  | .block => true
  | .permgen => true
  | .bembed => true
  | .reasm => true
  | .idwt => true
  | .unpad => true
  | .cscInv => true
  | .bextract => true
  | .vote => true
  | .release => true

/-- The constraint 00_scope R7 puts on MAXDIM. -/
def maxDimOk (n : Nat) : Bool := decide (1 ≤ n) && decide (n ≤ 65535)

/-- The constraint 00_scope R7 puts on MAXWM. -/
def maxWmOk (n : Nat) : Bool := decide (1 ≤ n) && decide (n < 2 ^ 32)

end Sys2Proof
end

