-- ==== Sys2Proof/Decode.lean ====
section
/-! DEFINITION. Decoding a command word and encoding a command (30_encoding R90 to R94). Decoding is total:
every 32-bit word is one of the fourteen commands or is illegal, by name. -/

namespace Sys2Proof

/-- Why a command word is illegal (30_encoding R93). Either way the command fails with E_OPCODE at completion. -/
inductive DecodeError where
  /-- Bits 31:8 are not all 0; raised whatever the OPC is. -/
  | zeroFieldNotZero
  /-- OPC is 0x0D, 0x0E or 0x10 to 0xFF. -/
  | reservedOpcode (opc : BitVec 8)
  deriving DecidableEq, Repr

/-- The command an opcode selects (30_encoding R91), or none for a reserved one (R93). -/
def decodeOpc (opc : BitVec 8) : Option Instr :=
  match opc.toNat with
  | 0x00 => some .nop
  | 0x01 => some .cscFwd
  | 0x02 => some .pad
  | 0x03 => some .dwt
  | 0x04 => some .block
  | 0x05 => some .permgen
  | 0x06 => some .bembed
  | 0x07 => some .reasm
  | 0x08 => some .idwt
  | 0x09 => some .unpad
  | 0x0A => some .cscInv
  | 0x0B => some .bextract
  | 0x0C => some .vote
  | 0x0F => some .release
  | _ => none

/-- The command a word stands for, or the name of what makes it illegal: the decoder of 30_encoding R90 reads
OPC and checks that bits 31:8 are 0. -/
def decodeWord (w : Word) : Except DecodeError Instr :=
  if zeroField w == 0#24 then
    match decodeOpc (opcField w) with
    | some i => .ok i
    | none => .error (.reservedOpcode (opcField w))
  else .error .zeroFieldNotZero

/-- The opcode of a command (30_encoding R91). -/
def opcOf : Instr → BitVec 8
  | .nop => 0x00#8
  | .cscFwd => 0x01#8
  | .pad => 0x02#8
  | .dwt => 0x03#8
  | .block => 0x04#8
  | .permgen => 0x05#8
  | .bembed => 0x06#8
  | .reasm => 0x07#8
  | .idwt => 0x08#8
  | .unpad => 0x09#8
  | .cscInv => 0x0A#8
  | .bextract => 0x0B#8
  | .vote => 0x0C#8
  | .release => 0x0F#8

/-- The one word of a command: OPC in bits 7:0, zeros above (30_encoding R90). -/
def encode (i : Instr) : Word := 0#24 ++ opcOf i

/-- The instruction the decoder reads from an opcode-table row's bits: one 32-bit word (30_encoding R94), every
bit above `nbits` zero. -/
def decodeTableWord (nbits w : Nat) : Option Instr :=
  (decodeWord (BitVec.ofNat 32 (w % 2 ^ nbits))).toOption

end Sys2Proof
end

