-- ==== Sys2Proof/Machine/Arith.lean ====
section
/-! DEFINITION. The arithmetic record NUM of 00_scope R10, over any carrier. Every formula of the spec is written
once over this record. With the binary32 record (Machine/Float.lean) a formula is the spec's default value; with
exact rationals (below) it is the spec's reference value. -/

namespace Sys2Proof.Machine

/-- NUM (00_scope R10), with the design-time constants c32 beside it. -/
structure Arith (α : Type) where
  /-- `a (+) b` -/
  add : α → α → α
  /-- `a (-) b` -/
  sub : α → α → α
  /-- `a (*) b` -/
  mul : α → α → α
  /-- `a (/) b` -/
  div : α → α → α
  /-- `floorf(a)` -/
  floor : α → α
  /-- `fmodf(a, b)` -/
  fmod : α → α → α
  /-- `f32(n)` -/
  ofNat : Nat → α
  /-- `a > b` -/
  gt : α → α → Bool
  /-- `a >= b` -/
  ge : α → α → Bool
  /-- `c32(n/d)`, the constant nearest the real number n/d. -/
  const : Nat → Nat → α

/-- The constant 2.0. -/
def Arith.two {α : Type} (N : Arith α) : α := N.const 2 1

/-- The constant 255.0. -/
def Arith.c255 {α : Type} (N : Arith α) : α := N.const 255 1

/-- Exact arithmetic over the rationals: the reference value of a formula (00_scope R10, glossary). -/
def exactArith : Arith Rat where
  add a b := a + b
  sub a b := a - b
  mul a b := a * b
  div a b := a / b
  floor a := (Rat.floor a : Rat)
  fmod a b := a - b * (Rat.floor (a / b) : Rat)
  ofNat n := (n : Rat)
  gt a b := decide (b < a)
  ge a b := decide (b ≤ a)
  const n d := (n : Rat) / (d : Rat)

end Sys2Proof.Machine
end

