-- ==== Sys2Proof/Machine/Float.lean ====
section
/-! DEFINITION. IEEE 754 binary32, round to nearest, ties to even, subnormals kept (00_scope R10, 92_eei_decisions
D19, D35): the default NUM. Every finite binary32 value is a whole number of units of 2^-149, so the operations
compute exactly on naturals and round once. -/

namespace Sys2Proof.Machine.F32

open Sys2Proof

/-- What a binary32 word stands for. `fin neg m` is the value m * 2^-149, negated when `neg`; the sign of a zero
is kept. -/
inductive Val where
  | nan
  | inf (neg : Bool)
  | fin (neg : Bool) (units : Nat)
  deriving DecidableEq, Repr

/-- Sign, bit 31 (20_memory R68). -/
def sign (w : Word) : Bool := w.getLsbD 31

/-- Exponent field, bits 30:23 (20_memory R68). -/
def expField (w : Word) : Nat := w.toNat / 2 ^ 23 % 2 ^ 8

/-- Fraction field, bits 22:0 (20_memory R68). -/
def fracField (w : Word) : Nat := w.toNat % 2 ^ 23

/-- The value of a word. -/
def val (w : Word) : Val :=
  if expField w == 255 then
    if fracField w == 0 then .inf (sign w) else .nan
  else if expField w == 0 then .fin (sign w) (fracField w)
  else .fin (sign w) ((2 ^ 23 + fracField w) * 2 ^ (expField w - 1))

/-- A word from its sign and its low 31 bits; anything at or above the infinity is the infinity. -/
def pack (neg : Bool) (m : Nat) : Word :=
  BitVec.ofNat 32 (min m 0x7F800000 + if neg then 2 ^ 31 else 0)

/-- The infinity of a sign. -/
def infinity (neg : Bool) : Word := pack neg 0x7F800000

/-- How many low bits of the whole part fall below the last place of a binary32 value. -/
def dropBits (q : Nat) : Nat := if q < 2 ^ 24 then 0 else q.log2 - 23

/-- The word nearest ±(num/den) units of 2^-149, ties to even, overflow to infinity. -/
def round (neg : Bool) (num den : Nat) : Word :=
  let e := dropBits (num / den)
  let d := den * 2 ^ e
  let n := num / d
  let r := num % d
  let up := decide (d < 2 * r) || (2 * r == d && n % 2 == 1)
  pack neg (e * 2 ^ 23 + n + up.toNat)

/-- What IEEE 754 and the spec leave open: the bits of a NaN result (by operation and operands), and fmodf
outside the operands 00_scope R10 gives it for. -/
structure Open where
  nan : Nat → Word → Word → Word
  fmod : Word → Word → Word

/-- Any word made into a NaN: exponent all ones, fraction not 0; every NaN word is its own image. -/
def asNan (raw : Word) : Word :=
  if fracField (raw ||| 0x7F800000#32) == 0 then raw ||| 0x7FC00000#32 else raw ||| 0x7F800000#32

/-- The NaN result of operation number `op` on `a` and `b`: some NaN, its sign and fraction free. -/
def nanResult (o : Open) (op : Nat) (a b : Word) : Word := asNan (o.nan op a b)

/-- The exact sum of two finite values, rounded; an exact zero sum of opposite signs is +0. -/
def addFin (s : Bool) (m : Nat) (t : Bool) (n : Nat) : Word :=
  if s == t then round s (m + n) 1
  else if n < m then round s (m - n) 1
  else if m < n then round t (n - m) 1
  else round false 0 1

/-- The sum of two values; infinities of opposite signs give a NaN. -/
def addVal (bad : Word) : Val → Val → Word
  | .nan, _ => bad
  | _, .nan => bad
  | .inf s, .inf t => if s == t then infinity s else bad
  | .inf s, .fin _ _ => infinity s
  | .fin _ _, .inf t => infinity t
  | .fin s m, .fin t n => addFin s m t n

/-- A value with its sign turned. -/
def negVal : Val → Val
  | .nan => .nan
  | .inf s => .inf (!s)
  | .fin s m => .fin (!s) m

def add (o : Open) (a b : Word) : Word := addVal (nanResult o 0 a b) (val a) (val b)

def sub (o : Open) (a b : Word) : Word := addVal (nanResult o 1 a b) (val a) (negVal (val b))

/-- The product of two values; zero times infinity gives a NaN. -/
def mulVal (bad : Word) : Val → Val → Word
  | .nan, _ => bad
  | _, .nan => bad
  | .inf s, .inf t => infinity (s ^^ t)
  | .inf s, .fin t n => if n == 0 then bad else infinity (s ^^ t)
  | .fin s m, .inf t => if m == 0 then bad else infinity (s ^^ t)
  | .fin s m, .fin t n => round (s ^^ t) (m * n) (2 ^ 149)

def mul (o : Open) (a b : Word) : Word := mulVal (nanResult o 2 a b) (val a) (val b)

/-- The quotient of two values; 0/0 and infinity/infinity give a NaN, other divisions by zero an infinity. -/
def divVal (bad : Word) : Val → Val → Word
  | .nan, _ => bad
  | _, .nan => bad
  | .inf _, .inf _ => bad
  | .inf s, .fin t _ => infinity (s ^^ t)
  | .fin s _, .inf t => pack (s ^^ t) 0
  | .fin s m, .fin t n =>
    if n == 0 then (if m == 0 then bad else infinity (s ^^ t)) else round (s ^^ t) (m * 2 ^ 149) n

def div (o : Open) (a b : Word) : Word := divVal (nanResult o 3 a b) (val a) (val b)

/-- The largest integer not above the value (00_scope R10); a zero keeps its sign. -/
def floorVal (w bad : Word) : Val → Word
  | .nan => bad
  | .inf _ => w
  | .fin false m => round false (m / 2 ^ 149 * 2 ^ 149) 1
  | .fin true m => round true ((m + (2 ^ 149 - 1)) / 2 ^ 149 * 2 ^ 149) 1

def floor (o : Open) (a : Word) : Word := floorVal a (nanResult o 4 a 0#32) (val a)

/-- fmodf (00_scope R10): exact for a ≥ 0 and finite b > 0; a NaN where an operand is one or a is infinite;
`opn` (free) elsewhere, where the spec gives no result. -/
def fmodVal (bad opn : Word) : Val → Val → Word
  | .nan, _ => bad
  | _, .nan => bad
  | .inf _, _ => bad
  | .fin s m, .fin false n => if n == 0 || (s && m != 0) then opn else round s (m % n) 1
  | .fin _ _, _ => opn

def fmod (o : Open) (a b : Word) : Word :=
  fmodVal (nanResult o 5 a b) (o.fmod a b) (val a) (val b)

/-- f32(n) (00_scope R10). -/
def ofNat (n : Nat) : Word := round false (n * 2 ^ 149) 1

/-- c32(n/d), the constant nearest n/d (00_scope R10). -/
def const (n d : Nat) : Word := round false (n * 2 ^ 149) d

/-- The place of a value in the IEEE order, in units of 2^-149; none for a NaN. Every finite value lies strictly
between the two infinities. -/
def order : Val → Option Int
  | .nan => none
  | .inf neg => some (if neg then -(2 ^ 300) else 2 ^ 300)
  | .fin neg m => some (if neg then -(m : Int) else m)

/-- a > b; false when either is a NaN (00_scope R10). -/
def gt (a b : Word) : Bool :=
  match order (val a), order (val b) with
  | some x, some y => decide (y < x)
  | _, _ => false

/-- a ≥ b; false when either is a NaN (00_scope R10). -/
def ge (a b : Word) : Bool :=
  match order (val a), order (val b) with
  | some x, some y => decide (y ≤ x)
  | _, _ => false

/-- The default NUM (00_scope R7, R10). -/
def ieee (o : Open) : Arith Word where
  add := add o
  sub := sub o
  mul := mul o
  div := div o
  floor := floor o
  fmod := fmod o
  ofNat := ofNat
  gt := gt
  ge := ge
  const := const

/-- The word is neither an infinity nor a NaN. -/
def finite (w : Word) : Bool := expField w != 255

/-- The rational number a finite word stands for (0 for a word that is not finite; contracts use it on finite
words only). -/
def toRat (w : Word) : Rat :=
  match val w with
  | .fin false m => (m : Rat) / 2 ^ 149
  | .fin true m => -((m : Rat) / 2 ^ 149)
  | _ => 0

end Sys2Proof.Machine.F32
end

