-- ==== Sys2Proof/Machine/Matrix.lean ====
section
/-! DEFINITION. 4x4 matrices and the DCT pair (00_scope R12, 43_block_codec R160, R161), over any arithmetic. -/

namespace Sys2Proof.Machine

/-- A 4x4 matrix, row first (00_scope R12). -/
abbrev Mat (α : Type) := Fin 4 → Fin 4 → α

/-- An inner product summed left to right from its first term (43_block_codec R160). -/
def dot4 {α : Type} (N : Arith α) (x y : Fin 4 → α) : α :=
  N.add (N.add (N.add (N.mul (x 0) (y 0)) (N.mul (x 1) (y 1))) (N.mul (x 2) (y 2))) (N.mul (x 3) (y 3))

/-- The product a * b, each entry an inner product (43_block_codec R160, R161). -/
def matMul {α : Type} (N : Arith α) (a b : Mat α) : Mat α := fun i j => dot4 N (a i) (fun k => b k j)

/-- The transpose (00_scope R12). -/
def transpose {α : Type} (a : Mat α) : Mat α := fun i j => a j i

/-- The forward transform with matrix C: T = C * B, then T * transpose C (43_block_codec R160). -/
def dct2 {α : Type} (N : Arith α) (C B : Mat α) : Mat α := matMul N (matMul N C B) (transpose C)

/-- The inverse transform with matrix C: T = transpose C * D, then T * C (43_block_codec R161). -/
def dct3 {α : Type} (N : Arith α) (C D : Mat α) : Mat α := matMul N (matMul N (transpose C) D) C

/-- CDCT, the orthonormal 4x4 DCT-II matrix as binary32 constants (43_block_codec R160). -/
def cdct : Mat Word :=
  ![![0x3F000000#32, 0x3F000000#32, 0x3F000000#32, 0x3F000000#32],
    ![0x3F273D75#32, 0x3E8A8BD4#32, 0xBE8A8BD4#32, 0xBF273D75#32],
    ![0x3F000000#32, 0xBF000000#32, 0xBF000000#32, 0x3F000000#32],
    ![0x3E8A8BD4#32, 0xBF273D75#32, 0x3F273D75#32, 0xBE8A8BD4#32]]

end Sys2Proof.Machine
end

