-- ==== Sys2Proof/Machine/Svd.lean ====
section
/-! DEFINITION. What svd4 and svals4 owe (43_block_codec R163, R164). The functions themselves are open
parameters (Config); these are the properties every choice of them has. -/

namespace Sys2Proof.Machine

/-- A decomposition: U, the singular values s, V (43_block_codec R163). -/
structure SvdResult where
  u : Mat Word
  s : Fin 4 → Word
  v : Mat Word

/-- Every cell of the matrix is finite (43_block_codec R163). -/
def matFinite (D : Mat Word) : Prop := ∀ i j, F32.finite (D i j) = true

/-- The singular values are finite, descending and not negative: SVD-ORDER and SVALS-ORDER (43_block_codec R163,
R164). -/
def SvdOrder (s : Fin 4 → Word) : Prop :=
  (∀ j, F32.finite (s j) = true) ∧ F32.toRat (s 1) ≤ F32.toRat (s 0) ∧ F32.toRat (s 2) ≤ F32.toRat (s 1) ∧
    F32.toRat (s 3) ≤ F32.toRat (s 2) ∧ 0 ≤ F32.toRat (s 3)

/-- Every entry of (transpose a * a) - I has magnitude at most eps: SVD-ORTH (43_block_codec R163). -/
def SvdOrth (eps : Rat) (a : Mat Word) : Prop :=
  matFinite a ∧ ∀ i j, |(∑ k, F32.toRat (a k i) * F32.toRat (a k j)) - if i = j then 1 else 0| ≤ eps

/-- Every entry of U * diag s * transpose V - D has magnitude at most eps * max 1 (s 0): SVD-RECON
(43_block_codec R163). -/
def SvdRecon (eps : Rat) (D : Mat Word) (r : SvdResult) : Prop :=
  ∀ i j, |(∑ k, F32.toRat (r.u i k) * F32.toRat (r.s k) * F32.toRat (r.v j k)) - F32.toRat (D i j)|
    ≤ eps * max 1 (F32.toRat (r.s 0))

/-- What svd4 owes: nothing on a matrix with a cell that is not finite, nothing on when it fails, and the three
properties on every other answer (43_block_codec R163). -/
def Svd4Contract (eps : Rat) (svd4 : Mat Word → Option SvdResult) : Prop :=
  ∀ D r, matFinite D → svd4 D = some r →
    SvdOrder r.s ∧ SvdOrth eps r.u ∧ SvdOrth eps r.v ∧ SvdRecon eps D r

/-- sigma lists the singular values of D over the reals, largest first (43_block_codec R164). -/
def IsSingularValues (D : Mat Word) (sigma : Fin 4 → ℝ) : Prop :=
  (∀ j k, j ≤ k → sigma k ≤ sigma j) ∧ (∀ j, 0 ≤ sigma j) ∧
    ∃ U V : Matrix (Fin 4) (Fin 4) ℝ, U.transpose * U = 1 ∧ V.transpose * V = 1 ∧
      ∀ i j, ((F32.toRat (D i j) : Rat) : ℝ) = (U * Matrix.diagonal sigma * V.transpose) i j

/-- What svals4 owes: SVALS-ORDER and SVALS-VALUE on every answer for a finite matrix (43_block_codec R164). -/
def Svals4Contract (eps : Rat) (svals4 : Mat Word → Option (Fin 4 → Word)) : Prop :=
  ∀ D s, matFinite D → svals4 D = some s →
    SvdOrder s ∧ ∃ sigma, IsSingularValues D sigma ∧
      ∀ j, |((F32.toRat (s j) : Rat) : ℝ) - sigma j| ≤ (eps : ℝ) * max 1 ((F32.toRat (s 0) : Rat) : ℝ)

end Sys2Proof.Machine
end

