-- ==== Sys2Proof/Config.lean ====
section
/-! DEFINITION. What one implementation fixes, and the free values (00_scope R7, 10_state R45, R44, 93_implementation_defined
part 1). An opaque constant here has no body that a proof can see: a statement that holds of the model holds for
every value of it. -/

namespace Sys2Proof

/-- BS, the block edge, fixed at 4 (00_scope R7, 42_blocker R145). -/
abbrev Config.bs : Nat := 4

/-- NCH, the channels that carry bits, fixed at 3 (00_scope R7). -/
abbrev Config.nch : Nat := 3

/-- MAXDIM - 1, open (00_scope R7; log 6). -/
opaque Config.maxDimPred : Fin 65535

/-- MAXWM - 1, open (00_scope R7; log 6). -/
opaque Config.maxWmPred : Fin 4294967295

/-- NLANES - 1, open and not observable: nothing reads it (00_scope R7, 20_memory R78; log 7). -/
opaque Config.nLanesPred : Nat

/-- Whether a recorded error locks the host's inputs in stage 0: open, because the spec's rules disagree. 60_exceptions
R254 (last sentence) says yes, 20_memory R61, R63, R65 and R75 say no (log 24). -/
opaque Config.errLocksInputs : Bool

/-- MAXDIM, from 1 to 65535 (00_scope R7). -/
def Config.maxDim : Nat := Config.maxDimPred.val + 1

/-- MAXWM, at least 1 and below 2^32 (00_scope R7). -/
def Config.maxWm : Nat := Config.maxWmPred.val + 1

/-- NLANES, at least 1 (00_scope R7). -/
def Config.nLanes : Nat := Config.nLanesPred + 1

/-- The content of a memory cell that nothing has written since reset number `epoch`: arbitrary (10_state R44,
93_implementation_defined U1; log 1). -/
opaque Config.resetCell (epoch addr : Nat) : Word

/-- The bits of a NaN result, by operation number and operands: free (92_eei_decisions D35 says only that it is a
NaN; log 12). -/
opaque Config.nanBits (op : Nat) (a b : Word) : Word

/-- fmodf outside a ≥ 0, b > 0: free (00_scope R10 gives it no value there; log 13). -/
opaque Config.fmodBits (a b : Word) : Word

/-- The two decomposition routines of one implementation, with EPS_SVD and the properties 43_block_codec R163
and R164 ask of them (log 8, 9). -/
structure Config.SvdUnit where
  /-- EPS_SVD -/
  eps : NNRat := 0
  svd4 : Machine.Mat Word → Option Machine.SvdResult := fun _ => none
  svals4 : Machine.Mat Word → Option (Fin 4 → Word) := fun _ => none
  svd4_contract : Machine.Svd4Contract eps svd4 := by intro D r _ h; cases h
  svals4_contract : Machine.Svals4Contract eps svals4 := by intro D s _ h; cases h
  deriving Inhabited

/-- The decomposition routines: open (00_scope R7, 93_implementation_defined U2). -/
opaque Config.svdUnit : Config.SvdUnit

/-- The colour coefficients of 40_colour_pad R113. -/
structure Config.Coef (α : Type) where
  kr : α
  kg : α
  kb : α
  db : α
  dr : α
  deriving DecidableEq, Repr

/-- The parameters of 00_scope R7 that a command reads, as one record, so that every body is written for any
value of them. -/
structure Config.Params where
  maxDim : Nat
  maxWm : Nat
  num : Machine.Arith Word
  coef : Config.Coef Word
  svd4 : Machine.Mat Word → Option Machine.SvdResult
  svals4 : Machine.Mat Word → Option (Fin 4 → Word)
  /-- SHUFFLE (n, seed) (44_permutation R204) -/
  shuffle : Nat → BitVec 64 → List Nat
  /-- VOTE_EMPTY (45_vote R217) -/
  voteEmpty : Bool
  /-- whether a recorded error locks the host's inputs in stage 0 (log 24) -/
  errLocks : Bool

/-- MAXP, the plane storage edge (00_scope R7). -/
def Config.Params.maxP (P : Config.Params) : Nat := P.maxDim + P.maxDim % 2

/-- MAXBLK, the block storage (00_scope R7). -/
def Config.Params.maxBlk (P : Config.Params) : Nat := P.maxP / 8 * (P.maxP / 8)

end Sys2Proof
end

