-- ==== Sys2Proof/Machine/Shuffle.lean ====
section
/-! DEFINITION. The reference SHUFFLE: Fisher-Yates driven by SplitMix64 (44_permutation R205). -/

namespace Sys2Proof.Machine

/-- `next` of 44_permutation R205: the new generator state and the output, all modulo 2^64. -/
def splitMixNext (s : BitVec 64) : BitVec 64 × BitVec 64 :=
  let s := s + 0x9E3779B97F4A7C15#64
  let z := (s ^^^ (s >>> 30)) * 0xBF58476D1CE4E5B9#64
  let z := (z ^^^ (z >>> 27)) * 0x94D049BB133111EB#64
  (s, z ^^^ (z >>> 31))

/-- The list with entries `a` and `b` exchanged. -/
def swapEntries (f : List Nat) (a b : Nat) : List Nat := (f.set a (f.getD b 0)).set b (f.getD a 0)

/-- The downward loop of 44_permutation R205, from index `k` to index 1, generator state `s`. -/
def fisherYates : Nat → BitVec 64 → List Nat → List Nat
  | 0, _, f => f
  | k + 1, s, f =>
    let r := splitMixNext s
    fisherYates k r.1 (swapEntries f (k + 1) (r.2.toNat % (k + 2)))

/-- SHUFFLE(n, seed) (44_permutation R205). -/
def refShuffle (n : Nat) (seed : BitVec 64) : List Nat := fisherYates (n - 1) seed (List.range n)

/-- PERM-BIJ: n entries, each in [0,n), pairwise different (44_permutation R204). -/
def PermBij (shuffle : Nat → BitVec 64 → List Nat) : Prop :=
  ∀ n seed, (shuffle n seed).length = n ∧ (∀ x ∈ shuffle n seed, x < n) ∧ (shuffle n seed).Nodup

end Sys2Proof.Machine
end

