-- ==== Sys2Proof/Machine/Params.lean ====
section
/-! DEFINITION. The parameter values this model runs with: the spec's defaults where 00_scope R7 gives one, the
open constants of Config elsewhere. -/

namespace Sys2Proof.Machine

open Sys2Proof

/-- The default NUM: binary32 with the NaN bits and the open part of fmodf left free (00_scope R10). -/
def num32 : Arith Word := F32.ieee { nan := Config.nanBits, fmod := Config.fmodBits }

/-- The default colour coefficients, those of ITU-R BT.709, as constants of the arithmetic (40_colour_pad R113). -/
def bt709 {α : Type} (N : Arith α) : Config.Coef α where
  kr := N.const 2126 10000
  kg := N.const 7152 10000
  kb := N.const 722 10000
  db := N.const 18556 10000
  dr := N.const 15748 10000

/-- The parameters of this implementation (00_scope R7). -/
def params : Config.Params where
  maxDim := Config.maxDim
  maxWm := Config.maxWm
  num := num32
  coef := bt709 num32
  svd4 := Config.svdUnit.svd4
  svals4 := Config.svdUnit.svals4
  shuffle := refShuffle
  voteEmpty := true
  errLocks := Config.errLocksInputs

end Sys2Proof.Machine
end

