-- ==== Sys2Proof/Machine/State.lean ====
section
/-! DEFINITION. The state of the unit (10_state R22) with the model's own fields for the host port, the reasons a
step can stop, and the state after reset (10_state R44). -/

namespace Sys2Proof.Machine

open Sys2Proof

/-- STAGE: the representation of the image the unit holds (10_state R25). Codes 13 to 15 are never taken. -/
inductive Stage where
  | rgba | ycbcr | padded | subbands | blocked | mapped | embedded | reassembled | reconstructed | unpadded
  | rgbaOut | rawbits | decoded
  deriving DecidableEq, Repr

/-- The error codes 1 to 7 of 60_exceptions R250. -/
inductive ErrCode where
  /-- E_OPCODE: the command word is illegal. -/
  | opcode
  /-- E_STAGE: the command is not legal in the current stage. -/
  | stage
  /-- E_CONFIG: a strength that is used is 0. -/
  | config
  /-- E_DIM: HEIGHT or WIDTH is 0 or above MAXDIM. -/
  | dim
  /-- E_CAPACITY: WM_LEN is above NBLOCKS. -/
  | capacity
  /-- E_WMLEN: WM_LEN is 0 or above MAXWM. -/
  | wmlen
  /-- E_NOBLOCKS: NBLOCKS is 0. -/
  | noblocks
  deriving DecidableEq, Repr

/-- The four subband kinds of a channel (10_state R36). -/
inductive Band where
  | ll | hl | lh | hh
  deriving DecidableEq, Repr

/-- A colour channel: 0 Y, 1 Cb, 2 Cr (10_state R36). -/
abbrev Ch := Fin 3

/-- The 23 memory spaces of 20_memory R60. -/
inductive Space where
  /-- Pixel planes P0 to P3 (10_state R35). -/
  | plane (k : Fin 4)
  /-- Subband planes (10_state R36). -/
  | sub (ch : Ch) (b : Band)
  /-- Block memories (10_state R37). -/
  | blk (ch : Ch)
  /-- Payload memory (10_state R38). -/
  | wm
  /-- Output memory (10_state R39). -/
  | out
  /-- Raw vote memory (10_state R40). -/
  | raw
  /-- Permutation memory (10_state R41). -/
  | perm
  deriving DecidableEq, Repr

/-- The cells written since the last reset, as (address, word) pairs. An address is 32 * (index in the format of
20_memory R64) + (PSEL code), see `Space.key`. An unlisted address holds no written value; what it reads as is
`State.cell`. -/
abbrev Mem := List (Nat × Word)

/-- One turn of the script that stands for the world outside the unit and for the moment of completion
(20_memory R72, 46_control R231; log 4). -/
inductive Turn where
  /-- The unit moves: it completes a pending command or idles. -/
  | unit
  /-- The reset input is asserted (70_reset_and_hazards R280). -/
  | reset
  /-- The host reads the register at a byte offset, with an access of `bits` bits. -/
  | read (off : BitVec 8) (bits : Nat)
  /-- The host writes `w` to the register at a byte offset, with an access of `bits` bits. -/
  | write (off : BitVec 8) (bits : Nat) (w : Word)
  /-- The host reads STATUS until BUSY reads 0 (30_encoding R95, R96). -/
  | wait
  /-- The host reaches a FILL line, whose PUTs depend on the state of the unit at that moment (30_encoding R96). -/
  | fill (sp : Space) (v : Word)
  deriving DecidableEq, Repr

/-- The whole state. -/
structure State where
  /-- STATUS.BUSY (10_state R24) -/
  busy : Bool
  /-- STATUS.OVR (10_state R24) -/
  ovr : Bool
  /-- STATUS.ACC (10_state R24) -/
  acc : Bool
  /-- STATUS.ERR (10_state R24); none is code 0 -/
  err : Option ErrCode
  /-- STAGE (10_state R25) -/
  stage : Stage
  /-- HEIGHT (10_state R26) -/
  height : BitVec 16
  /-- WIDTH (10_state R26) -/
  width : BitVec 16
  /-- STRENGTH1 (10_state R27) -/
  strength1 : BitVec 16
  /-- STRENGTH2 (10_state R28) -/
  strength2 : BitVec 16
  /-- MODE: bit 0 STRAT, bit 1 S2EN (10_state R29) -/
  mode : BitVec 2
  /-- SEED_LO (10_state R30) -/
  seedLo : Word
  /-- SEED_HI (10_state R30) -/
  seedHi : Word
  /-- WM_LEN (10_state R31) -/
  wmLen : Word
  /-- DEGRADED (10_state R33) -/
  degraded : Word
  /-- PSEL (10_state R34) -/
  psel : BitVec 5
  /-- PADDR (10_state R34) -/
  paddr : Word
  /-- PEND, the hidden pending command word (10_state R42) -/
  pend : Word
  /-- P0 to P3, the twelve subband planes, BLK, WM, OUT, RAW, PERM (10_state R35 to R41) -/
  mem : Mem
  /-- The model's own: the turns still to come (log 4) -/
  host : List Turn
  /-- The model's own: what the last host read returned (log 3) -/
  rdata : Word
  /-- The model's own: how many resets have happened, for the free cell values (log 1, 3) -/
  epoch : Nat
  deriving DecidableEq, Repr

/-- Why the machine would stop with a fault. There is no such reason: the spec has no undefined behaviour and no
sequence of host accesses leaves the machine without a next state (70_reset_and_hazards R291). Safe. -/
inductive Fault where
  deriving DecidableEq, Repr

/-- Why an instruction would have no meaning. -/
inductive Refusal where
  /-- Raised by `exec` alone, for an instruction without a meaning; in this model no arm raises it. Safe. -/
  | notModelled (mnemonic : String)
  deriving DecidableEq, Repr

/-- The state after reset (10_state R44, 70_reset_and_hazards R281). PEND is the model's choice (log 2), as are the
model's own fields (log 3); no memory cell has a known value. -/
def State.reset : State where
  busy := false
  ovr := false
  acc := false
  err := none
  stage := .rgba
  height := 0#16
  width := 0#16
  strength1 := 36#16
  strength2 := 0#16
  mode := 0#2
  seedLo := 0#32
  seedHi := 0#32
  wmLen := 0#32
  degraded := 0#32
  psel := 0#5
  paddr := 0#32
  pend := 0#32
  mem := []
  host := []
  rdata := 0#32
  epoch := 0

end Sys2Proof.Machine
end

