-- ==== Sys2Proof/Machine/Ops.lean ====
section
/-! DEFINITION. The named operations on the state: memory cells, recording an error and returning from it, the
frame every command runs in, and reset. -/

namespace Sys2Proof.Machine

open Sys2Proof

/-- The outcome of a step of this machine. -/
abbrev Out := Host.Outcome State Fault Refusal

/-! ## Memory spaces and addresses -/

def Band.code : Band → Nat
  | .ll => 0
  | .hl => 1
  | .lh => 2
  | .hh => 3

/-- The PSEL code of a space (20_memory R60). -/
def Space.code : Space → Nat
  | .plane k => k.val
  | .sub ch b => 4 + 4 * ch.val + b.code
  | .blk ch => 16 + ch.val
  | .wm => 19
  | .out => 20
  | .raw => 21
  | .perm => 22

/-- The space of a PSEL code; none for 23 to 31 (20_memory R60). -/
def Space.ofCode (n : Nat) : Option Space :=
  match n with
  | 0 => some (.plane 0)
  | 1 => some (.plane 1)
  | 2 => some (.plane 2)
  | 3 => some (.plane 3)
  | 4 => some (.sub 0 .ll)
  | 5 => some (.sub 0 .hl)
  | 6 => some (.sub 0 .lh)
  | 7 => some (.sub 0 .hh)
  | 8 => some (.sub 1 .ll)
  | 9 => some (.sub 1 .hl)
  | 10 => some (.sub 1 .lh)
  | 11 => some (.sub 1 .hh)
  | 12 => some (.sub 2 .ll)
  | 13 => some (.sub 2 .hl)
  | 14 => some (.sub 2 .lh)
  | 15 => some (.sub 2 .hh)
  | 16 => some (.blk 0)
  | 17 => some (.blk 1)
  | 18 => some (.blk 2)
  | 19 => some .wm
  | 20 => some .out
  | 21 => some .raw
  | 22 => some .perm
  | _ => none

/-- The part of a word a cell of the space keeps: 1 bit in WM and OUT, 3 bits in RAW, the whole word elsewhere
(20_memory R60, R63). -/
def Space.fit : Space → Word → Word
  | .wm, v => v &&& 1#32
  | .out, v => v &&& 1#32
  | .raw, v => v &&& 7#32
  | .plane _, v => v
  | .sub _ _, v => v
  | .blk _, v => v
  | .perm, v => v

/-- The address of a cell in `Mem`, from its space and its index in the format of 20_memory R64. -/
def Space.key (sp : Space) (a : Nat) : Nat := 32 * a + sp.code

/-- The index of plane or subband cell [r,c]: row in bits 31:16, column in bits 15:0 (20_memory R64). -/
def rc (r c : Nat) : Nat := 65536 * r + c

/-- The row of a plane index (20_memory R64). -/
def rowOf (a : Nat) : Nat := a / 65536

/-- The column of a plane index (20_memory R64). -/
def colOf (a : Nat) : Nat := a % 65536

/-- The index of cell [u,v] of block i (20_memory R64). -/
def blkAt (i u v : Nat) : Nat := 16 * i + 4 * u + v

/-- The plane that carries a colour channel (41_wavelet R130). -/
def planeOf (ch : Ch) : Space := .plane ch.castSucc

/-! ## Memory -/

/-- The value written at an address since the last reset, if any. -/
def Mem.lookup : Mem → Nat → Option Word
  | [], _ => none
  | (k, v) :: m, a => if a = k then some v else Mem.lookup m a

/-- Write a value at an address, keeping the addresses strictly rising. -/
def Mem.write : Mem → Nat → Word → Mem
  | [], a, w => [(a, w)]
  | (k, v) :: m, a, w =>
    if a < k then (a, w) :: (k, v) :: m
    else if a = k then (a, w) :: m
    else (k, v) :: Mem.write m a w

/-- An entry that can stand in the memory: its address is that of a cell of some space, its value fits the cell. -/
def Mem.entryOk (e : Nat × Word) : Bool :=
  match Space.ofCode (e.1 % 32) with
  | some sp => sp.fit e.2 == e.2
  | none => false

/-- The canonical form: addresses strictly rising, every entry the value of a cell. No entry equals what an
unlisted address reads as, because an unlisted address holds no value. -/
abbrev Mem.wf (m : Mem) : Prop := m.Pairwise (fun e f => e.1 < f.1) ∧ ∀ e ∈ m, Mem.entryOk e = true

/-- MemRead(sp, a) (00_scope R9). A cell that nothing has written since the last reset holds an arbitrary value
(10_state R44; log 1). -/
def State.cell (s : State) (sp : Space) (a : Nat) : Word :=
  match s.mem.lookup (sp.key a) with
  | some v => v
  | none => sp.fit (Config.resetCell s.epoch (sp.key a))

/-- MemWrite(sp, a, v) (00_scope R9, 20_memory R63): the low bits of v, as wide as the cell. -/
def State.setCell (s : State) (sp : Space) (a : Nat) (v : Word) : State :=
  { s with mem := s.mem.write (sp.key a) (sp.fit v) }

/-- One MemWrite for each listed cell, the value a function of the cell: the "for all ... in any order" of the
command rules (00_scope R9, 20_memory R78). The values are taken before any of the writes. -/
def State.fill (s : State) (cells : List (Space × Nat)) (f : Space → Nat → Word) : State :=
  { s with mem := cells.foldl (fun m c => m.write (c.1.key c.2) (c.1.fit (f c.1 c.2))) s.mem }

/-- The cells [0,rows) x [0,cols) of each listed space. -/
def rect (sps : List Space) (rows cols : Nat) : List (Space × Nat) :=
  sps.flatMap fun sp => (List.range rows).flatMap fun r => (List.range cols).map fun c => (sp, rc r c)

/-- The cells [0,n) of each listed space. -/
def linear (sps : List Space) (n : Nat) : List (Space × Nat) :=
  sps.flatMap fun sp => (List.range n).map fun a => (sp, a)

/-! ## Stage and errors -/

/-- STAGE <- g. -/
def State.toStage (s : State) (g : Stage) : State := { s with stage := g }

/-- `fail(e)`, which is `raise e` of every command rule: the first code of a run is kept, nothing else changes
(60_exceptions R253). -/
def State.fail (s : State) (e : ErrCode) : State :=
  match s.err with
  | none => { s with err := some e }
  | some _ => s

/-- The return from the error state and the end of a run: what RELEASE does (46_control R235, 60_exceptions
R255). -/
def State.endRun (s : State) : State :=
  { s with stage := .rgba, err := none, ovr := false, acc := false, degraded := 0#32 }

/-- The frame of 46_control R232 after the checks for an illegal word, RELEASE and NOP: a recorded error refuses
the command, then the stage is checked, then the body either raises an error or gives its state. -/
def State.runBody (s : State) (legal : List Stage) (body : State → Except ErrCode State) : Out :=
  match s.err with
  | some _ => .next s
  | none =>
    if s.stage ∈ legal then
      match body s with
      | .ok t => .next t
      | .error e => .next (s.fail e)
    else .next (s.fail .stage)

/-- Reset (70_reset_and_hazards R280): every register takes its reset value, a pending command is abandoned, every
memory cell becomes arbitrary again (a new epoch). The script and the last returned word belong to the host and
stay. -/
def State.doReset (s : State) : State :=
  { State.reset with host := s.host, rdata := s.rdata, epoch := s.epoch + 1 }

end Sys2Proof.Machine
end

