-- ==== Sys2Proof/Machine/Operands.lean ====
section
/-! DEFINITION. What the commands take as operands: the configuration registers and the quantities derived from
HEIGHT and WIDTH (30_encoding R92, 10_state R26 to R32), and the extents (10_state R46). -/

namespace Sys2Proof.Machine

open Sys2Proof

/-- S1, the value of STRENGTH1 (43_block_codec, opening). -/
def State.s1 (s : State) : Nat := s.strength1.toNat

/-- S2, the value of STRENGTH2 (43_block_codec, opening). -/
def State.s2 (s : State) : Nat := s.strength2.toNat

/-- MODE.STRAT (10_state R29). -/
def State.strat (s : State) : Bool := s.mode.getLsbD 0

/-- MODE.S2EN (10_state R29). -/
def State.s2en (s : State) : Bool := s.mode.getLsbD 1

/-- SEED, SEED_HI in the high half (10_state R30). -/
def State.seed (s : State) : BitVec 64 := s.seedHi ++ s.seedLo

/-- WM_LEN as a number (10_state R31). -/
def State.wmLenN (s : State) : Nat := s.wmLen.toNat

/-- HEIGHT as a number (10_state R26). -/
def State.rows (s : State) : Nat := s.height.toNat

/-- WIDTH as a number (10_state R26). -/
def State.cols (s : State) : Nat := s.width.toNat

/-- PH (10_state R32). -/
def State.ph (s : State) : Nat := s.rows + s.rows % 2

/-- PW (10_state R32). -/
def State.pw (s : State) : Nat := s.cols + s.cols % 2

/-- LLR, rows of every subband (10_state R32). -/
def State.llr (s : State) : Nat := s.ph / 2

/-- LLC, columns of every subband (10_state R32). -/
def State.llc (s : State) : Nat := s.pw / 2

/-- BROWS (10_state R32). -/
def State.brows (s : State) : Nat := s.llr / Config.bs

/-- BCOLS (10_state R32). -/
def State.bcols (s : State) : Nat := s.llc / Config.bs

/-- NBLOCKS (10_state R32). -/
def State.nblocks (s : State) : Nat := s.brows * s.bcols

/-- The configuration CSC_FWD accepts: the strengths that are used are positive (40_colour_pad R110). -/
def State.configOk (s : State) : Bool := !(s.s1 == 0 || (s.s2en && s.s2 == 0))

/-- The dimensions CSC_FWD accepts (40_colour_pad R110, 10_state R26). -/
def State.dimsOk (P : Config.Params) (s : State) : Bool :=
  !(s.rows == 0 || s.cols == 0 || decide (P.maxDim < s.rows) || decide (P.maxDim < s.cols))

/-- The payload lengths BEMBED and BEXTRACT accept (10_state R31). -/
def State.wmLenOk (P : Config.Params) (s : State) : Bool :=
  !(s.wmLenN == 0 || decide (P.maxWm < s.wmLenN))

/-- The cell is inside the rows and columns given. -/
def inRect (a rows cols : Nat) : Bool := decide (rowOf a < rows) && decide (colOf a < cols)

/-- Whether a stage holds the planes at their original size (10_state R46, first and fourth row). -/
def Stage.originalSize : Stage → Bool
  | .rgba | .ycbcr | .unpadded | .rgbaOut => true
  | .padded | .subbands | .blocked | .mapped | .embedded | .reassembled | .reconstructed | .rawbits | .decoded =>
    false

/-- Whether a stage holds P0 to P2 at the padded size (10_state R46, second row). -/
def Stage.paddedPlanes : Stage → Bool
  | .padded | .reconstructed => true
  | .rgba | .ycbcr | .unpadded | .rgbaOut | .subbands | .blocked | .mapped | .embedded | .reassembled | .rawbits
  | .decoded => false

/-- Whether the subbands have an extent (10_state R46: stages 3 to 7, 11, 12). -/
def Stage.hasSubbands : Stage → Bool
  | .subbands | .blocked | .mapped | .embedded | .reassembled | .rawbits | .decoded => true
  | .rgba | .ycbcr | .padded | .reconstructed | .unpadded | .rgbaOut => false

/-- Whether BLK has an extent (10_state R46: stages 4, 5, 6, 11, 12). -/
def Stage.hasBlocks : Stage → Bool
  | .blocked | .mapped | .embedded | .rawbits | .decoded => true
  | .rgba | .ycbcr | .padded | .subbands | .reassembled | .reconstructed | .unpadded | .rgbaOut => false

/-- Whether OUT has an extent (10_state R46: stage 12). -/
def Stage.hasOut : Stage → Bool
  | .decoded => true
  | .rgba | .ycbcr | .padded | .subbands | .blocked | .mapped | .embedded | .reassembled | .reconstructed
  | .unpadded | .rgbaOut | .rawbits => false

/-- Whether RAW has an extent (10_state R46: stages 11, 12). -/
def Stage.hasRaw : Stage → Bool
  | .rawbits | .decoded => true
  | .rgba | .ycbcr | .padded | .subbands | .blocked | .mapped | .embedded | .reassembled | .reconstructed
  | .unpadded | .rgbaOut => false

/-- Whether PERM has an extent (10_state R46: stages 5 to 12). -/
def Stage.hasPerm : Stage → Bool
  | .mapped | .embedded | .reassembled | .reconstructed | .unpadded | .rgbaOut | .rawbits | .decoded => true
  | .rgba | .ycbcr | .padded | .subbands | .blocked => false

/-- The address lies inside the extent its memory has in the current stage (10_state R46). -/
def State.inExtent (P : Config.Params) (s : State) (sp : Space) (a : Nat) : Bool :=
  match sp with
  | .plane k =>
    if s.stage.originalSize then inRect a s.rows s.cols
    else if k = 3 || s.stage.paddedPlanes then inRect a s.ph s.pw
    else false
  | .sub _ _ => s.stage.hasSubbands && inRect a s.llr s.llc
  | .blk _ => s.stage.hasBlocks && decide (a < 16 * s.nblocks)
  | .wm => decide (a < P.maxWm)
  | .out => s.stage.hasOut && decide (a < s.wmLenN)
  | .raw => s.stage.hasRaw && decide (a < s.nblocks)
  | .perm => s.stage.hasPerm && decide (a < s.nblocks)

/-- The address is that of a cell the memory has at all (10_state R35 to R41, 20_memory R60 "storage"). -/
def Space.inStorage (P : Config.Params) (sp : Space) (a : Nat) : Bool :=
  match sp with
  | .plane _ => inRect a P.maxP P.maxP
  | .sub _ _ => inRect a (P.maxP / 2) (P.maxP / 2)
  | .blk _ => decide (a < 16 * P.maxBlk)
  | .wm => decide (a < P.maxWm)
  | .out => decide (a < P.maxWm)
  | .raw => decide (a < P.maxBlk)
  | .perm => decide (a < P.maxBlk)

end Sys2Proof.Machine
end

