-- ==== Sys2Proof/Machine/Flags.lean ====
section
/-! DEFINITION. The unit's only flags: the STATUS register (10_state R23, R24), the codes of STAGE and ERR
(10_state R25, 60_exceptions R250). No command computes an arithmetic flag. -/

namespace Sys2Proof.Machine

open Sys2Proof

/-- The stage code (10_state R25). -/
def Stage.code : Stage → BitVec 4
  | .rgba => 0#4
  | .ycbcr => 1#4
  | .padded => 2#4
  | .subbands => 3#4
  | .blocked => 4#4
  | .mapped => 5#4
  | .embedded => 6#4
  | .reassembled => 7#4
  | .reconstructed => 8#4
  | .unpadded => 9#4
  | .rgbaOut => 10#4
  | .rawbits => 11#4
  | .decoded => 12#4

/-- The error code (60_exceptions R250). -/
def ErrCode.code : ErrCode → BitVec 4
  | .opcode => 1#4
  | .stage => 2#4
  | .config => 3#4
  | .dim => 4#4
  | .capacity => 5#4
  | .wmlen => 6#4
  | .noblocks => 7#4

/-- STATUS.ERR: 0 when no error is recorded (10_state R24). -/
def State.errField (s : State) : BitVec 4 :=
  match s.err with
  | none => 0#4
  | some e => e.code

/-- STATUS.REM: some cell of LL is in no block (10_state R24, R32). -/
def State.rem (s : State) : Bool := s.llr % Config.bs != 0 || s.llc % Config.bs != 0

/-- STATUS as the host reads it: ERR in bits 7:4, REM 3, ACC 2, OVR 1, BUSY 0, zeros above (10_state R24). -/
def State.statusWord (s : State) : Word :=
  0#24 ++ s.errField ++ BitVec.ofBool s.rem ++ BitVec.ofBool s.acc ++ BitVec.ofBool s.ovr ++ BitVec.ofBool s.busy

end Sys2Proof.Machine
end

