-- ==== Sys2Proof/Machine/Control.lean ====
section
/-! DEFINITION. Stage sequencing (46_control R233) and the control commands NOP (R234) and RELEASE (R235). -/

namespace Sys2Proof.Machine

open Sys2Proof

/-- Every stage, in the order of its code (10_state R25). -/
def allStages : List Stage :=
  [.rgba, .ycbcr, .padded, .subbands, .blocked, .mapped, .embedded, .reassembled, .reconstructed, .unpadded,
   .rgbaOut, .rawbits, .decoded]

/-- The stages a command is legal in (46_control R233, second column). -/
def legalStages : Instr → List Stage
  | .nop => allStages
  | .cscFwd => [.rgba]
  | .pad => [.ycbcr]
  | .dwt => [.padded]
  | .block => [.subbands]
  | .permgen => [.blocked]
  | .bembed => [.mapped]
  | .reasm => [.blocked, .mapped, .embedded]
  | .idwt => [.subbands, .reassembled]
  | .unpad => [.padded, .reconstructed]
  | .cscInv => [.ycbcr, .unpadded]
  | .bextract => [.mapped]
  | .vote => [.rawbits]
  | .release => allStages

/-- The stage a command leads to (46_control R233, third column); none is "unchanged". -/
def nextStage : Instr → Option Stage
  | .nop => none
  | .cscFwd => some .ycbcr
  | .pad => some .padded
  | .dwt => some .subbands
  | .block => some .blocked
  | .permgen => some .mapped
  | .bembed => some .embedded
  | .reasm => some .reassembled
  | .idwt => some .reconstructed
  | .unpad => some .unpadded
  | .cscInv => some .rgbaOut
  | .bextract => some .rawbits
  | .vote => some .decoded
  | .release => some .rgba

/-- NOP: nothing, in any stage and with or without a recorded error (46_control R232, R234). -/
def execNop (s : State) : Out := .next s

/-- RELEASE: legal always, cannot fail (46_control R232, R235). -/
def execRelease (s : State) : Out := .next s.endRun

end Sys2Proof.Machine
end

