-- ==== Sys2Proof/Machine/Blocker.lean ====
section
/-! DEFINITION. The blocker and the reassembler: BLOCK, REASM (42_blocker). -/

namespace Sys2Proof.Machine

open Sys2Proof

/-- The LL cell that block i covers at [u,v], with `bcols` block columns (42_blocker R145). -/
def tileCell (bcols i u v : Nat) : Nat := rc (Config.bs * (i / bcols) + u) (Config.bs * (i % bcols) + v)

/-- The block that covers LL cell [r,c], with `bcols` block columns: i = row * blockCols + col (42_blocker R145). -/
def tileOf (bcols r c : Nat) : Nat := r / Config.bs * bcols + c / Config.bs

/-- BLK[0], BLK[1], BLK[2]. -/
def blkSpaces : List Space := [.blk 0, .blk 1, .blk 2]

/-- LL[0], LL[1], LL[2]. -/
def llPlanes : List Space := [.sub 0 .ll, .sub 1 .ll, .sub 2 .ll]

/-- What BLOCK writes in a block cell: a copy of the LL word (42_blocker R146). -/
def blockCell (s : State) (sp : Space) (a : Nat) : Word :=
  match sp with
  | .blk ch => s.cell (.sub ch .ll) (tileCell s.bcols (a / 16) (a % 16 / 4) (a % 4))
  | _ => s.cell sp a

/-- What REASM writes in an LL cell of the blocked part: a copy of the block word (42_blocker R147). -/
def reasmCell (s : State) (sp : Space) (a : Nat) : Word :=
  match sp with
  | .sub ch .ll =>
    s.cell (.blk ch) (blkAt (tileOf s.bcols (rowOf a) (colOf a)) (rowOf a % Config.bs) (colOf a % Config.bs))
  | _ => s.cell sp a

/-- The body of BLOCK (42_blocker R146). -/
def blockBody (s : State) : Except ErrCode State :=
  .ok ((s.fill (linear blkSpaces (16 * s.nblocks)) (blockCell s)).toStage .blocked)

/-- The body of REASM: the blocked part of each LL, the remainder rows and columns not written (42_blocker R147,
R148). -/
def reasmBody (s : State) : Except ErrCode State :=
  .ok ((s.fill (rect llPlanes (Config.bs * s.brows) (Config.bs * s.bcols)) (reasmCell s)).toStage .reassembled)

/-- BLOCK (42_blocker R146). -/
def execBlock (s : State) : Out := s.runBody (legalStages .block) blockBody

/-- REASM (42_blocker R147). -/
def execReasm (s : State) : Out := s.runBody (legalStages .reasm) reasmBody

end Sys2Proof.Machine
end

