-- ==== Sys2Proof/Machine/Permutation.lean ====
section
/-! DEFINITION. The permutation engine: PERMGEN, and the bit position of a block (44_permutation). -/

namespace Sys2Proof.Machine

open Sys2Proof

/-- PERM[i] as a number (10_state R41). -/
def State.permAt (s : State) (i : Nat) : Nat := (s.cell .perm i).toNat

/-- bitpos(i) (44_permutation R202). -/
def State.bitpos (s : State) (i : Nat) : Nat := s.permAt i % s.wmLenN

/-- group(p), in rising order (44_permutation R203). -/
def State.group (s : State) (p : Nat) : List Nat := (List.range s.nblocks).filter fun i => s.bitpos i == p

/-- f(i) of the permutation PERMGEN constructs: the identity in Normal mode, SHUFFLE(NBLOCKS, SEED) in Strategy
mode (44_permutation R201). -/
def permEntry (P : Config.Params) (s : State) (i : Nat) : Nat :=
  if s.strat then (P.shuffle s.nblocks s.seed).getD i 0 else i

/-- The body of PERMGEN (44_permutation R201). -/
def permgenBody (P : Config.Params) (s : State) : Except ErrCode State :=
  .ok ((s.fill (linear [.perm] s.nblocks) fun _ i => BitVec.ofNat 32 (permEntry P s i)).toStage .mapped)

/-- PERMGEN with any parameters. -/
def permgen (P : Config.Params) (s : State) : Out := s.runBody (legalStages .permgen) (permgenBody P)

/-- PERMGEN (44_permutation R201). -/
def execPermgen (s : State) : Out := permgen params s

end Sys2Proof.Machine
end

