-- ==== Sys2Proof/Machine/Codec.lean ====
section
/-! DEFINITION. The block codec: the quantiser, the per-block functions, BEMBED and BEXTRACT (43_block_codec). -/

namespace Sys2Proof.Machine

open Sys2Proof

/-- qim_embed(sigma, S, bit) (43_block_codec R165). -/
def qimEmbed {α : Type} (N : Arith α) (sigma : α) (S : Nat) (bit : Bool) : α :=
  let t := N.mul sigma N.c255
  let q := N.div t (N.ofNat S)
  let n := N.floor q
  let g := N.add n (if bit then N.const 3 4 else N.const 1 4)
  let h := N.mul g (N.ofNat S)
  N.div h N.c255

/-- qim_decode(sigma, S) (43_block_codec R166). -/
def qimDecode {α : Type} (N : Arith α) (sigma : α) (S : Nat) : Bool :=
  let t := N.mul sigma N.c255
  let m := N.fmod t (N.ofNat S)
  N.gt m (N.div (N.ofNat S) N.two)

/-- combine(bit1, bit2): 0.75*bit1 + 0.25*bit2 >= 0.5, counted in quarters, in which every value is exact
(43_block_codec R169; log 25). -/
def combine (bit1 bit2 : Bool) : Bool := decide (2 ≤ 3 * bit1.toNat + bit2.toNat)

/-- The singular values after modulation: s0 with step S1, s1 with step S2 when MODE.S2EN = 1 (43_block_codec
R167). -/
def modulate {α : Type} (N : Arith α) (S1 S2 : Nat) (s2en bit : Bool) (s : Fin 4 → α) : Fin 4 → α :=
  fun j =>
    if j = 0 then qimEmbed N (s 0) S1 bit
    else if j = 1 then (if s2en then qimEmbed N (s 1) S2 bit else s 1)
    else s j

/-- The recomposition W = U * diag s, D' = W * transpose V, in the order of 43_block_codec R167. -/
def recompose {α : Type} (N : Arith α) (U : Mat α) (s : Fin 4 → α) (V : Mat α) : Mat α :=
  matMul N (fun k j => N.mul (U k j) (s j)) (transpose V)

/-- embed_block(B, bit): the new block and the degrade count (43_block_codec R167). -/
def embedBlock (P : Config.Params) (S1 S2 : Nat) (s2en : Bool) (B : Mat Word) (bit : Bool) : Mat Word × Nat :=
  match P.svd4 (dct2 P.num cdct B) with
  | none => (B, 1)
  | some r => (dct3 P.num cdct (recompose P.num r.u (modulate P.num S1 S2 s2en bit r.s) r.v), 0)

/-- extract_block(B): the bit and the degrade count (43_block_codec R168). -/
def extractBlock (P : Config.Params) (S1 S2 : Nat) (s2en : Bool) (B : Mat Word) : Bool × Nat :=
  match P.svals4 (dct2 P.num cdct B) with
  | none => (false, 1)
  | some s =>
    let bit1 := qimDecode P.num (s 0) S1
    if s2en then (combine bit1 (qimDecode P.num (s 1) S2), 0) else (bit1, 0)

/-- BLK[ch][i] (10_state R37). -/
def State.block (s : State) (ch : Ch) (i : Nat) : Mat Word := fun u v => s.cell (.blk ch) (blkAt i u.val v.val)

/-- The payload bit block i carries: WM[PERM[i] mod WM_LEN] (43_block_codec R170). -/
def State.payloadBit (s : State) (i : Nat) : Bool := (s.cell .wm (s.bitpos i)).getLsbD 0

/-- embed_block of one (block, channel) pair with the current configuration. -/
def State.embedOf (P : Config.Params) (s : State) (ch : Ch) (i : Nat) : Mat Word × Nat :=
  embedBlock P s.s1 s.s2 s.s2en (s.block ch i) (s.payloadBit i)

/-- extract_block of one (block, channel) pair with the current configuration. -/
def State.extractOf (P : Config.Params) (s : State) (ch : Ch) (i : Nat) : Bool × Nat :=
  extractBlock P s.s1 s.s2 s.s2en (s.block ch i)

/-- The sum of a count over every (block, channel) pair. -/
def State.overPairs (s : State) (g : Ch → Nat → Nat) : Nat :=
  ((List.range s.nblocks).map fun i => g 0 i + g 1 i + g 2 i).sum

/-- What BEMBED writes in a block cell. -/
def bembedCell (P : Config.Params) (s : State) (sp : Space) (a : Nat) : Word :=
  match sp with
  | .blk ch => (s.embedOf P ch (a / 16)).1 (Fin.ofNat 4 (a % 16 / 4)) (Fin.ofNat 4 (a % 4))
  | _ => s.cell sp a

/-- The raw (Y, Cb, Cr) triple of block i: Y in bit 0, Cb in bit 1, Cr in bit 2 (20_memory R60). -/
def rawTriple (P : Config.Params) (s : State) (i : Nat) : Word :=
  BitVec.ofNat 32 ((s.extractOf P 0 i).1.toNat + 2 * (s.extractOf P 1 i).1.toNat + 4 * (s.extractOf P 2 i).1.toNat)

/-- The body of BEMBED (43_block_codec R170): E_WMLEN, then E_CAPACITY, then every block of every channel. -/
def bembedBody (P : Config.Params) (s : State) : Except ErrCode State :=
  if !s.wmLenOk P then .error .wmlen
  else if s.nblocks < s.wmLenN then .error .capacity
  else
    .ok { (s.fill (linear [.blk 0, .blk 1, .blk 2] (16 * s.nblocks)) (bembedCell P s)).toStage .embedded with
      degraded := BitVec.ofNat 32 (s.overPairs fun ch i => (s.embedOf P ch i).2) }

/-- The body of BEXTRACT (43_block_codec R171): E_WMLEN, then E_NOBLOCKS, then every block of every channel. -/
def bextractBody (P : Config.Params) (s : State) : Except ErrCode State :=
  if !s.wmLenOk P then .error .wmlen
  else if s.nblocks == 0 then .error .noblocks
  else
    .ok { (s.fill (linear [.raw] s.nblocks) fun _ i => rawTriple P s i).toStage .rawbits with
      degraded := BitVec.ofNat 32 (s.overPairs fun ch i => (s.extractOf P ch i).2) }

/-- BEMBED with any parameters. -/
def bembed (P : Config.Params) (s : State) : Out := s.runBody (legalStages .bembed) (bembedBody P)

/-- BEXTRACT with any parameters. -/
def bextract (P : Config.Params) (s : State) : Out := s.runBody (legalStages .bextract) (bextractBody P)

/-- BEMBED (43_block_codec R170). -/
def execBembed (s : State) : Out := bembed params s

/-- BEXTRACT (43_block_codec R171). -/
def execBextract (s : State) : Out := bextract params s

end Sys2Proof.Machine
end

