-- ==== Sys2Proof/Machine/Colour.lean ====
section
/-! DEFINITION. The colour converter and the padder: CSC_FWD, CSC_INV, PAD, UNPAD (40_colour_pad). -/

namespace Sys2Proof.Machine

open Sys2Proof

/-- A pixel, or its converted form, as three values. -/
structure Triple (α : Type) where
  x : α
  y : α
  z : α
  deriving DecidableEq, Repr

/-- One pixel forward, (R, G, B) to (Y, Cb, Cr), in the order of 40_colour_pad R110. -/
def cscFwdPixel {α : Type} (N : Arith α) (K : Config.Coef α) (p : Triple α) : Triple α :=
  let y := N.add (N.add (N.mul K.kr p.x) (N.mul K.kg p.y)) (N.mul K.kb p.z)
  { x := y, y := N.div (N.sub p.z y) K.db, z := N.div (N.sub p.x y) K.dr }

/-- One pixel back, (Y, Cb, Cr) to (R, G, B), in the order of 40_colour_pad R111. -/
def cscInvPixel {α : Type} (N : Arith α) (K : Config.Coef α) (p : Triple α) : Triple α :=
  let rr := N.add p.x (N.mul K.dr p.z)
  let bb := N.add p.x (N.mul K.db p.y)
  { x := rr, y := N.div (N.sub (N.sub p.x (N.mul K.kr rr)) (N.mul K.kb bb)) K.kg, z := bb }

/-- The words of P0, P1, P2 at one cell. -/
def State.pixel (s : State) (a : Nat) : Triple Word :=
  { x := s.cell (.plane 0) a, y := s.cell (.plane 1) a, z := s.cell (.plane 2) a }

/-- The part of a triple that plane k holds. -/
def Triple.ofPlane {α : Type} (t : Triple α) : Space → α
  | .plane 0 => t.x
  | .plane 1 => t.y
  | _ => t.z

/-- P0, P1 and P2. -/
def colourPlanes : List Space := [.plane 0, .plane 1, .plane 2]

/-- P0 to P3. -/
def allPlanes : List Space := [.plane 0, .plane 1, .plane 2, .plane 3]

/-- The body of CSC_FWD (40_colour_pad R110): E_CONFIG, then E_DIM, then every pixel of the extent. -/
def cscFwdBody (P : Config.Params) (s : State) : Except ErrCode State :=
  if !s.configOk then .error .config
  else if !s.dimsOk P then .error .dim
  else
    .ok ((s.fill (rect colourPlanes s.rows s.cols)
      fun sp a => (cscFwdPixel P.num P.coef (s.pixel a)).ofPlane sp).toStage .ycbcr)

/-- The body of CSC_INV (40_colour_pad R111). -/
def cscInvBody (P : Config.Params) (s : State) : Except ErrCode State :=
  .ok ((s.fill (rect colourPlanes s.rows s.cols)
    fun sp a => (cscInvPixel P.num P.coef (s.pixel a)).ofPlane sp).toStage .rgbaOut)

/-- The padding row: present when HEIGHT is odd (40_colour_pad R114). -/
def State.padRow (s : State) : List (Space × Nat) :=
  if s.rows % 2 == 1 then allPlanes.flatMap fun sp => (List.range s.pw).map fun c => (sp, rc s.rows c) else []

/-- The padding column: present when WIDTH is odd (40_colour_pad R114). -/
def State.padCol (s : State) : List (Space × Nat) :=
  if s.cols % 2 == 1 then allPlanes.flatMap fun sp => (List.range s.ph).map fun r => (sp, rc r s.cols) else []

/-- The body of PAD: +0.0 in the padding row and column of all four planes (40_colour_pad R114). -/
def padBody (s : State) : Except ErrCode State :=
  .ok ((s.fill (s.padRow ++ s.padCol) fun _ _ => 0x00000000#32).toStage .padded)

/-- The body of UNPAD: the crop is a change of extent (40_colour_pad R115). -/
def unpadBody (s : State) : Except ErrCode State := .ok (s.toStage .unpadded)

/-- CSC_FWD with any parameters. -/
def cscFwd (P : Config.Params) (s : State) : Out := s.runBody (legalStages .cscFwd) (cscFwdBody P)

/-- CSC_INV with any parameters. -/
def cscInv (P : Config.Params) (s : State) : Out := s.runBody (legalStages .cscInv) (cscInvBody P)

/-- CSC_FWD (40_colour_pad R110). -/
def execCscFwd (s : State) : Out := cscFwd params s

/-- CSC_INV (40_colour_pad R111). -/
def execCscInv (s : State) : Out := cscInv params s

/-- PAD (40_colour_pad R114). -/
def execPad (s : State) : Out := s.runBody (legalStages .pad) padBody

/-- UNPAD (40_colour_pad R115). -/
def execUnpad (s : State) : Out := s.runBody (legalStages .unpad) unpadBody

end Sys2Proof.Machine
end

