-- ==== Sys2Proof/Machine/VoteDecoder.lean ====
section
/-! DEFINITION. The vote decoder: VOTE, majority over three channels and all blocks of a position (45_vote). -/

namespace Sys2Proof.Machine

open Sys2Proof

/-- RAW[i][0] + RAW[i][1] + RAW[i][2], each raw bit counting 0 or 1 (45_vote R215). -/
def State.rawSum (s : State) (i : Nat) : Nat :=
  let t := s.cell .raw i
  (t.getLsbD 0).toNat + (t.getLsbD 1).toNat + (t.getLsbD 2).toNat

/-- count and sum of position p (45_vote R215). -/
def State.votes (s : State) (p : Nat) : Nat × Nat :=
  ((s.group p).length, ((s.group p).map s.rawSum).sum)

/-- The decision from count and sum: VOTE_EMPTY for an empty group, else 2*sum >= 3*count (45_vote R215, R216,
R217). -/
def voteBit (empty : Bool) (count sum : Nat) : Bool :=
  if count == 0 then empty else decide (3 * count ≤ 2 * sum)

/-- What VOTE writes in OUT[p]. -/
def voteCell (P : Config.Params) (s : State) (p : Nat) : Word :=
  BitVec.ofNat 32 (voteBit P.voteEmpty (s.votes p).1 (s.votes p).2).toNat

/-- The body of VOTE (45_vote R215). -/
def voteBody (P : Config.Params) (s : State) : Except ErrCode State :=
  .ok ((s.fill (linear [.out] s.wmLenN) fun _ p => voteCell P s p).toStage .decoded)

/-- VOTE with any parameters. -/
def vote (P : Config.Params) (s : State) : Out := s.runBody (legalStages .vote) (voteBody P)

/-- VOTE (45_vote R215). -/
def execVote (s : State) : Out := vote params s

end Sys2Proof.Machine
end

