-- ==== Sys2Proof/Machine/Wavelet.lean ====
section
/-! DEFINITION. The wavelet stage: DWT, IDWT, the Haar 4-tap filter bank (41_wavelet). -/

namespace Sys2Proof.Machine

open Sys2Proof

/-- A 2x2 neighbourhood a, b / d, e (41_wavelet R132), or its four subband values LL, HL, LH, HH. -/
structure Quad (α : Type) where
  q0 : α
  q1 : α
  q2 : α
  q3 : α
  deriving DecidableEq, Repr

/-- The four filters with decimation, summed left to right and halved. The bank is its own inverse, so the same four
formulas serve 41_wavelet R130 (a, b, d, e to LL, HL, LH, HH) and R131 (LL, HL, LH, HH to a, b, d, e). -/
def haar {α : Type} (N : Arith α) (x : Quad α) : Quad α where
  q0 := N.div (N.add (N.add (N.add x.q0 x.q1) x.q2) x.q3) N.two
  q1 := N.div (N.sub (N.add (N.sub x.q0 x.q1) x.q2) x.q3) N.two
  q2 := N.div (N.sub (N.sub (N.add x.q0 x.q1) x.q2) x.q3) N.two
  q3 := N.div (N.add (N.sub (N.sub x.q0 x.q1) x.q2) x.q3) N.two

/-- The analysis bank of 41_wavelet R130. -/
def haarAnalysis {α : Type} (N : Arith α) (x : Quad α) : Quad α := haar N x

/-- The synthesis bank of 41_wavelet R131. -/
def haarSynthesis {α : Type} (N : Arith α) (x : Quad α) : Quad α := haar N x

/-- The value of a subband kind. -/
def Quad.ofBand {α : Type} (q : Quad α) : Band → α
  | .ll => q.q0
  | .hl => q.q1
  | .lh => q.q2
  | .hh => q.q3

/-- The value of the neighbourhood's cell at row parity r, column parity c. -/
def Quad.ofParity {α : Type} (q : Quad α) (r c : Nat) : α :=
  if r % 2 = 0 then (if c % 2 = 0 then q.q0 else q.q1) else (if c % 2 = 0 then q.q2 else q.q3)

/-- The neighbourhood of output cell (i,j) in a channel's plane: rows 2i, 2i+1, columns 2j, 2j+1 (41_wavelet
R132). -/
def State.hood (s : State) (ch : Ch) (i j : Nat) : Quad Word where
  q0 := s.cell (planeOf ch) (rc (2 * i) (2 * j))
  q1 := s.cell (planeOf ch) (rc (2 * i) (2 * j + 1))
  q2 := s.cell (planeOf ch) (rc (2 * i + 1) (2 * j))
  q3 := s.cell (planeOf ch) (rc (2 * i + 1) (2 * j + 1))

/-- The four subband cells (i,j) of a channel. -/
def State.bands (s : State) (ch : Ch) (i j : Nat) : Quad Word where
  q0 := s.cell (.sub ch .ll) (rc i j)
  q1 := s.cell (.sub ch .hl) (rc i j)
  q2 := s.cell (.sub ch .lh) (rc i j)
  q3 := s.cell (.sub ch .hh) (rc i j)

/-- The twelve subband planes (10_state R36). -/
def subPlanes : List Space :=
  [.sub 0 .ll, .sub 0 .hl, .sub 0 .lh, .sub 0 .hh, .sub 1 .ll, .sub 1 .hl, .sub 1 .lh, .sub 1 .hh,
   .sub 2 .ll, .sub 2 .hl, .sub 2 .lh, .sub 2 .hh]

/-- The planes of the three channels. -/
def channelPlanes : List Space := [.plane 0, .plane 1, .plane 2]

/-- What DWT writes in a subband cell (41_wavelet R130). -/
def dwtCell (P : Config.Params) (s : State) (sp : Space) (a : Nat) : Word :=
  match sp with
  | .sub ch b => (haarAnalysis P.num (s.hood ch (rowOf a) (colOf a))).ofBand b
  | _ => s.cell sp a

/-- What IDWT writes in a plane cell (41_wavelet R131). -/
def idwtCell (P : Config.Params) (s : State) (sp : Space) (a : Nat) : Word :=
  match sp with
  | .plane 0 => (haarSynthesis P.num (s.bands 0 (rowOf a / 2) (colOf a / 2))).ofParity (rowOf a) (colOf a)
  | .plane 1 => (haarSynthesis P.num (s.bands 1 (rowOf a / 2) (colOf a / 2))).ofParity (rowOf a) (colOf a)
  | .plane 2 => (haarSynthesis P.num (s.bands 2 (rowOf a / 2) (colOf a / 2))).ofParity (rowOf a) (colOf a)
  | _ => s.cell sp a

/-- The body of DWT (41_wavelet R130). -/
def dwtBody (P : Config.Params) (s : State) : Except ErrCode State :=
  .ok ((s.fill (rect subPlanes s.llr s.llc) (dwtCell P s)).toStage .subbands)

/-- The body of IDWT (41_wavelet R131). -/
def idwtBody (P : Config.Params) (s : State) : Except ErrCode State :=
  .ok ((s.fill (rect channelPlanes s.ph s.pw) (idwtCell P s)).toStage .reconstructed)

/-- DWT with any parameters. -/
def dwt (P : Config.Params) (s : State) : Out := s.runBody (legalStages .dwt) (dwtBody P)

/-- IDWT with any parameters. -/
def idwt (P : Config.Params) (s : State) : Out := s.runBody (legalStages .idwt) (idwtBody P)

/-- DWT (41_wavelet R130). -/
def execDwt (s : State) : Out := dwt params s

/-- IDWT (41_wavelet R131). -/
def execIdwt (s : State) : Out := idwt params s

end Sys2Proof.Machine
end

