-- ==== Sys2Proof/Machine/Dispatch.lean ====
section
/-! DEFINITION. exec: one arm per command, each one call of its meaning (46_control R232). -/

namespace Sys2Proof.Machine

open Sys2Proof

/-- exec(w) of 46_control R232 for a word that is the command i. -/
def exec (i : Instr) (s : State) : Host.Outcome State Fault Refusal :=
  match i with
  | .nop => Sys2Proof.Machine.execNop s
  | .cscFwd => Sys2Proof.Machine.execCscFwd s
  | .pad => Sys2Proof.Machine.execPad s
  | .dwt => Sys2Proof.Machine.execDwt s
  | .block => Sys2Proof.Machine.execBlock s
  | .permgen => Sys2Proof.Machine.execPermgen s
  | .bembed => Sys2Proof.Machine.execBembed s
  | .reasm => Sys2Proof.Machine.execReasm s
  | .idwt => Sys2Proof.Machine.execIdwt s
  | .unpad => Sys2Proof.Machine.execUnpad s
  | .cscInv => Sys2Proof.Machine.execCscInv s
  | .bextract => Sys2Proof.Machine.execBextract s
  | .vote => Sys2Proof.Machine.execVote s
  | .release => Sys2Proof.Machine.execRelease s

end Sys2Proof.Machine
end

