-- ==== Sys2Proof/Machine/HostPort.lean ====
section
/-! DEFINITION. The host port: the register map, register and window accesses, their refusal, and the acceptance of
a command (10_state section 3, 20_memory R60 to R70, 46_control R230). -/

namespace Sys2Proof.Machine

open Sys2Proof

/-- The registers of 10_state section 3. -/
inductive Reg where
  | cmd | status | stage | height | width | strength1 | strength2 | mode | seedLo | seedHi | wmLen | ph | pw | brows
  | bcols | nblocks | degraded | psel | paddr | pdata
  deriving DecidableEq, Repr

/-- The register at a byte offset; none for 0x50 to 0xFC and for an offset that is not a multiple of 4
(10_state section 3, R43). -/
def Reg.ofOffset (off : BitVec 8) : Option Reg :=
  match off.toNat with
  | 0x00 => some .cmd
  | 0x04 => some .status
  | 0x08 => some .stage
  | 0x0C => some .height
  | 0x10 => some .width
  | 0x14 => some .strength1
  | 0x18 => some .strength2
  | 0x1C => some .mode
  | 0x20 => some .seedLo
  | 0x24 => some .seedHi
  | 0x28 => some .wmLen
  | 0x2C => some .ph
  | 0x30 => some .pw
  | 0x34 => some .brows
  | 0x38 => some .bcols
  | 0x3C => some .nblocks
  | 0x40 => some .degraded
  | 0x44 => some .psel
  | 0x48 => some .paddr
  | 0x4C => some .pdata
  | _ => none

/-- The byte offset of a register (10_state section 3). -/
def Reg.offset : Reg → BitVec 8
  | .cmd => 0x00#8
  | .status => 0x04#8
  | .stage => 0x08#8
  | .height => 0x0C#8
  | .width => 0x10#8
  | .strength1 => 0x14#8
  | .strength2 => 0x18#8
  | .mode => 0x1C#8
  | .seedLo => 0x20#8
  | .seedHi => 0x24#8
  | .wmLen => 0x28#8
  | .ph => 0x2C#8
  | .pw => 0x30#8
  | .brows => 0x34#8
  | .bcols => 0x38#8
  | .nblocks => 0x3C#8
  | .degraded => 0x40#8
  | .psel => 0x44#8
  | .paddr => 0x48#8
  | .pdata => 0x4C#8

/-- The register an access reaches: 32 bits wide and at a register's offset; none is the last row of 20_memory R61
(R69, R43; log 20). -/
def regAt (off : BitVec 8) (bits : Nat) : Option Reg := if bits = 32 then Reg.ofOffset off else none

/-- The classes of 10_state section 3 that decide who may access a register (20_memory R61). -/
inductive RegClass where
  | command | alwaysRead | derived | config | window | data
  deriving DecidableEq, Repr

def Reg.cls : Reg → RegClass
  | .cmd => .command
  | .status => .alwaysRead
  | .stage => .alwaysRead
  | .height => .config
  | .width => .config
  | .strength1 => .config
  | .strength2 => .config
  | .mode => .config
  | .seedLo => .config
  | .seedHi => .config
  | .wmLen => .config
  | .ph => .derived
  | .pw => .derived
  | .brows => .derived
  | .bcols => .derived
  | .nblocks => .derived
  | .degraded => .derived
  | .psel => .window
  | .paddr => .window
  | .pdata => .data

/-- The space PSEL selects (20_memory R60). -/
def State.space (s : State) : Option Space := Space.ofCode s.psel.toNat

/-- The index inside the space: PADDR, whose halves are row and column for planes (20_memory R64). -/
def State.index (s : State) : Nat := s.paddr.toNat

/-- readable(PSEL, PADDR, STAGE) (20_memory R65). -/
def State.readable (P : Config.Params) (s : State) : Bool :=
  match s.space with
  | some sp => s.inExtent P sp s.index
  | none => false

/-- The configuration, the planes and WM are the host's to write: in stage 0 (20_memory R61, R65), and with an error
recorded only where that does not lock them (60_exceptions R254; log 24). -/
def State.inputsOpen (P : Config.Params) (s : State) : Bool := s.stage == .rgba && (s.err.isNone || !P.errLocks)

/-- writable(PSEL, PADDR, STAGE) (20_memory R65): planes and WM, in stage 0. -/
def State.writable (P : Config.Params) (s : State) : Bool :=
  match s.space with
  | some (.plane _) => s.inputsOpen P && inRect s.index s.rows s.cols
  | some .wm => s.inputsOpen P && decide (s.index < P.maxWm)
  | _ => false

/-- Whether a read of the register is performed (20_memory R61, R62). -/
def State.readOk (P : Config.Params) (s : State) (r : Reg) : Bool :=
  match r.cls with
  | .command => true
  | .alwaysRead => true
  | .derived => !s.busy
  | .config => !s.busy
  | .window => !s.busy
  | .data => !s.busy && s.readable P

/-- Whether a write of a register other than CMD is performed (20_memory R61, R63). -/
def State.writeOk (P : Config.Params) (s : State) (r : Reg) : Bool :=
  match r.cls with
  | .command => true
  | .alwaysRead => false
  | .derived => false
  | .config => !s.busy && s.inputsOpen P
  | .window => !s.busy
  | .data => !s.busy && s.writable P

/-- A refused access sets ACC and does nothing else (20_memory R66). -/
def State.refuse (s : State) : State := { s with acc := true }

/-- The cell the window selects (20_memory R62). -/
def State.windowCell (s : State) : Word :=
  match s.space with
  | some sp => s.cell sp s.index
  | none => 0#32

/-- What a performed read of a register returns, unnamed bits 0 (20_memory R61, 10_state R24 to R34). -/
def State.regValue (s : State) : Reg → Word
  | .cmd => 0#32
  | .status => s.statusWord
  | .stage => s.stage.code.zeroExtend 32
  | .height => s.height.zeroExtend 32
  | .width => s.width.zeroExtend 32
  | .strength1 => s.strength1.zeroExtend 32
  | .strength2 => s.strength2.zeroExtend 32
  | .mode => s.mode.zeroExtend 32
  | .seedLo => s.seedLo
  | .seedHi => s.seedHi
  | .wmLen => s.wmLen
  | .ph => BitVec.ofNat 32 s.ph
  | .pw => BitVec.ofNat 32 s.pw
  | .brows => BitVec.ofNat 32 s.brows
  | .bcols => BitVec.ofNat 32 s.bcols
  | .nblocks => BitVec.ofNat 32 s.nblocks
  | .degraded => s.degraded
  | .psel => s.psel.zeroExtend 32
  | .paddr => s.paddr
  | .pdata => s.windowCell

/-- HostRead: the word returned and the state after it (20_memory R61, R62, R66). -/
def State.hostRead (P : Config.Params) (s : State) (off : BitVec 8) (bits : Nat) : Word × State :=
  match regAt off bits with
  | some r => if s.readOk P r then (s.regValue r, s) else (0#32, s.refuse)
  | none => (0#32, s.refuse)

/-- A write of the window's cell. The access rights are those of R65; an address that the memory does not have at
all (possible only while an unvalidated HEIGHT or WIDTH exceeds MAXDIM) keeps nothing (log 17). -/
def State.writeWindow (P : Config.Params) (s : State) (w : Word) : State :=
  match s.space with
  | some sp => if sp.inStorage P s.index then s.setCell sp s.index w else s
  | none => s

/-- A performed write of a register: the named fields from the matching bits of w (20_memory R61, R63). -/
def State.writeReg (P : Config.Params) (s : State) (w : Word) : Reg → State
  | .height => { s with height := w.truncate 16 }
  | .width => { s with width := w.truncate 16 }
  | .strength1 => { s with strength1 := w.truncate 16 }
  | .strength2 => { s with strength2 := w.truncate 16 }
  | .mode => { s with mode := w.truncate 2 }
  | .seedLo => { s with seedLo := w }
  | .seedHi => { s with seedHi := w }
  | .wmLen => { s with wmLen := w }
  | .psel => { s with psel := w.truncate 5 }
  | .paddr => { s with paddr := w }
  | .pdata => s.writeWindow P w
  | .cmd => s
  | .status => s
  | .stage => s
  | .ph => s
  | .pw => s
  | .brows => s
  | .bcols => s
  | .nblocks => s
  | .degraded => s

/-- A write of CMD: dropped with OVR while a command is pending, else accepted (46_control R230). -/
def State.accept (s : State) (w : Word) : State :=
  if s.busy then { s with ovr := true } else { s with pend := w, busy := true }

/-- HostWrite (20_memory R61, R63, R66, 46_control R230). -/
def State.hostWrite (P : Config.Params) (s : State) (off : BitVec 8) (bits : Nat) (w : Word) : State :=
  match regAt off bits with
  | some .cmd => s.accept w
  | some r => if s.writeOk P r then s.writeReg P w r else s.refuse
  | none => s.refuse

end Sys2Proof.Machine
end

