-- ==== Sys2Proof/Machine/HostTurns.lean ====
section
/-! DEFINITION. The turns a host access of a program stands for, and the cells FILL writes (30_encoding R95, R96). -/

namespace Sys2Proof.Machine

open Sys2Proof

/-- HostWrite of a whole register. -/
def wr (r : Reg) (w : Word) : Turn := .write r.offset 32 w

/-- HostRead of a whole register. -/
def rd (r : Reg) : Turn := .read r.offset 32

/-- The turns that select a cell of the window. -/
def selectTurns (sp : Space) (a : Nat) : List Turn :=
  [wr .psel (BitVec.ofNat 32 sp.code), wr .paddr (BitVec.ofNat 32 a)]

/-- PUT, made while BUSY is 0 (30_encoding R96). -/
def putTurns (sp : Space) (a : Nat) (v : Word) : List Turn := .wait :: selectTurns sp a ++ [wr .pdata v]

/-- GET, made while BUSY is 0 (30_encoding R96). -/
def getTurns (sp : Space) (a : Nat) : List Turn := .wait :: selectTurns sp a ++ [rd .pdata]

/-- The write extent of a space: the cells the host may write in the current stage with the current dimensions
(20_memory R65). -/
def State.writeExtent (P : Config.Params) (s : State) : Space → List (Space × Nat)
  | .plane k => if s.inputsOpen P then rect [.plane k] s.rows s.cols else []
  | .wm => if s.inputsOpen P then linear [.wm] P.maxWm else []
  | .sub _ _ => []
  | .blk _ => []
  | .out => []
  | .raw => []
  | .perm => []

/-- FILL: one PUT for each cell of the write extent, all with the same value (30_encoding R96). -/
def State.fillTurns (P : Config.Params) (s : State) (sp : Space) (v : Word) : List Turn :=
  (s.writeExtent P sp).flatMap fun c => putTurns c.1 c.2 v

end Sys2Proof.Machine
end

