-- ==== Sys2Proof/Machine/Complete.lean ====
section
/-! DEFINITION. The completion of a pending command, and one turn of the script (46_control R231, R232). Every
definition takes the parameters and the meaning of the commands, so that claims can be made for any parameter values
in the ranges of 00_scope R7; the machine's own step uses `params` and `exec`. -/

namespace Sys2Proof.Machine

open Sys2Proof

/-- What gives a command its effect. -/
abbrev Meaning := Instr → State → Out

/-- The meanings of the commands with any parameters (00_scope R7). -/
def execWith (P : Config.Params) : Meaning
  | .nop, s => execNop s
  | .cscFwd, s => cscFwd P s
  | .pad, s => execPad s
  | .dwt, s => dwt P s
  | .block, s => execBlock s
  | .permgen, s => permgen P s
  | .bembed, s => bembed P s
  | .reasm, s => execReasm s
  | .idwt, s => idwt P s
  | .unpad, s => execUnpad s
  | .cscInv, s => cscInv P s
  | .bextract, s => bextract P s
  | .vote, s => vote P s
  | .release, s => execRelease s

/-- STATUS.BUSY <- 0 in a next state. -/
def clearBusy : Out → Out
  | .next t => .next { t with busy := false }
  | .fault r => .fault r
  | .refused r => .refused r

/-- Complete (46_control R231): exec(PEND), then BUSY <- 0. An illegal word fails with E_OPCODE (R232). -/
def State.complete (ex : Meaning) (s : State) : Out :=
  match decodeWord s.pend with
  | .ok i => clearBusy (ex i s)
  | .error _ => clearBusy (.next (s.fail .opcode))

/-- The unit's turn: it completes a pending command, and does nothing when none is pending (46_control R231). -/
def State.unitTurn (ex : Meaning) (s : State) : Out := if s.busy then s.complete ex else .next s

/-- The host's wait: it reads STATUS, and while BUSY reads 1 it lets the unit move and reads again (30_encoding R95,
R96; log 21). -/
def State.poll (s : State) : State :=
  if s.busy then { s with rdata := s.statusWord, host := .unit :: .wait :: s.host } else { s with rdata := s.statusWord }

/-- One turn of the script (20_memory R72, 70_reset_and_hazards R280; log 4). -/
def State.takeTurn (P : Config.Params) (ex : Meaning) (s : State) : Turn → Out
  | .unit => s.unitTurn ex
  | .reset => .next s.doReset
  | .read off bits => .next { (s.hostRead P off bits).2 with rdata := (s.hostRead P off bits).1 }
  | .write off bits w => .next (s.hostWrite P off bits w)
  | .wait => .next s.poll
  | .fill sp v => .next { s with host := s.fillTurns P sp v ++ s.host }

/-- The next turn of the machine: the head of the script, or the unit's own turn when the script is used up. -/
def State.advance (P : Config.Params) (ex : Meaning) (s : State) : Out :=
  match s.host with
  | [] => s.unitTurn ex
  | t :: rest => State.takeTurn P ex { s with host := rest } t

/-- The script with the unit's turn first, as it is when it already stands first or nothing is left. -/
def unitFirst : List Turn → List Turn
  | [] => []
  | .unit :: rest => .unit :: rest
  | .reset :: rest => .unit :: .reset :: rest
  | .read off bits :: rest => .unit :: .read off bits :: rest
  | .write off bits w :: rest => .unit :: .write off bits w :: rest
  | .wait :: rest => .unit :: .wait :: rest
  | .fill sp v :: rest => .unit :: .fill sp v :: rest

/-- The state in which the word w has just been accepted and the unit moves next: what a write of w to CMD by an
idle unit leaves (46_control R230; log 5). -/
def State.withPending (s : State) (w : Word) : State :=
  { s with pend := w, busy := true, host := unitFirst s.host }

end Sys2Proof.Machine
end

