-- ==== Sys2Proof/Machine/Step.lean ====
section
/-! DEFINITION. The one step function of the machine. -/

namespace Sys2Proof.Machine

open Sys2Proof

/-- One step: one turn of the host's script, or of the unit when the script is used up (20_memory R72, 46_control
R231). -/
def step (s : State) : Host.Outcome State Fault Refusal := s.advance params exec

/-- One step of a unit with any parameters (00_scope R7); `step` is this with `params`. -/
def stepWith (P : Config.Params) (s : State) : Host.Outcome State Fault Refusal := s.advance P (execWith P)

/-- k steps of a unit with any parameters. -/
def runWith (P : Config.Params) (k : Nat) (s : State) : Host.Outcome State Fault Refusal :=
  Host.Core.run { State := State, Fault := Fault, Refusal := Refusal, step := stepWith P, reset := State.reset } k s

/-- s with the command whose table bits are w pending, so that the next step runs it. The unit fetches nothing
(20_memory R77): a command stands in PEND from its acceptance to its completion (log 5). -/
def State.withFetchWord (s : State) (nbits w : Nat) : State := s.withPending (BitVec.ofNat 32 (w % 2 ^ nbits))

end Sys2Proof.Machine
end

