-- ==== Sys2Proof/Machine/Assembler.lean ====
section
/-! DEFINITION. The assembler layer: command lines, host directives and the pseudo-commands EMBED and EXTRACT, as turns
of the host (30_encoding R95 to R99). -/

namespace Sys2Proof.Machine

open Sys2Proof

/-- EMBED (30_encoding R97). -/
def embedCommands : List Instr :=
  [.cscFwd, .pad, .dwt, .block, .permgen, .bembed, .reasm, .idwt, .unpad, .cscInv]

/-- EXTRACT (30_encoding R98). -/
def extractCommands : List Instr := [.cscFwd, .pad, .dwt, .block, .permgen, .bextract, .vote]

/-- A line of a program (30_encoding R95 to R98). Plane addresses are (r,c) pairs, others linear. -/
inductive Line where
  | cmd (i : Instr)
  | set (r : Reg) (v : Word)
  | setSeed (v : BitVec 64)
  | put (sp : Space) (a : Nat) (v : Word)
  | get (sp : Space) (a : Nat)
  | fill (sp : Space) (v : Word)
  | loadWm (bits : List Bool)
  | wait
  | embed
  | extract
  deriving DecidableEq, Repr

/-- The turns of a command line: wait until STATUS.BUSY reads 0, then HostWrite(CMD, match) (30_encoding R95). -/
def cmdTurns (i : Instr) : List Turn := [.wait, wr .cmd (encode i)]

/-- LOADWM from position p on (30_encoding R96). -/
def loadWmTurns (p : Nat) : List Bool → List Turn
  | [] => []
  | b :: bs => putTurns .wm p (BitVec.ofNat 32 b.toNat) ++ loadWmTurns (p + 1) bs

/-- What a line stands for: every directive begins with the wait, since its accesses are made while BUSY is 0, and only
a write of CMD sets BUSY again (30_encoding R95 to R98). -/
def Line.turns : Line → List Turn
  | .cmd i => cmdTurns i
  | .set r v => [.wait, wr r v]
  | .setSeed v => [.wait, wr .seedLo (v.truncate 32), wr .seedHi ((v >>> 32).truncate 32)]
  | .put sp a v => putTurns sp a v
  | .get sp a => getTurns sp a
  | .fill sp v => [.wait, .fill sp v]
  | .loadWm bits => loadWmTurns 0 bits
  | .wait => [.wait]
  | .embed => embedCommands.flatMap cmdTurns
  | .extract => extractCommands.flatMap cmdTurns

/-- The turns of a program (30_encoding R95). -/
def programTurns (ls : List Line) : List Turn := ls.flatMap Line.turns

/-- The configuration of an operation and its four planes, as the host holds them (30_encoding R99, 46_control
R237). -/
structure Job where
  rows : Nat
  cols : Nat
  strength1 : Word
  strength2 : Word
  mode : Word
  seed : BitVec 64
  /-- P0 to P3, by plane, row and column -/
  pixels : List (Fin 4 × Nat × Nat × Word)
  deriving DecidableEq, Repr

/-- The lines that write the configuration and the planes in stage 0 (46_control R237 step 1). -/
def Job.setup (j : Job) : List Line :=
  [.set .height (BitVec.ofNat 32 j.rows), .set .width (BitVec.ofNat 32 j.cols), .set .strength1 j.strength1,
   .set .strength2 j.strength2, .set .mode j.mode, .setSeed j.seed]
    ++ j.pixels.map fun p => .put (.plane p.1) (rc p.2.1 p.2.2.1) p.2.2.2

/-- GET of every cell of the four planes. -/
def Job.readBack (j : Job) : List Line :=
  (rect [.plane 0, .plane 1, .plane 2, .plane 3] j.rows j.cols).map fun c => .get c.1 c.2

/-- embed(image, bits, cfg) (30_encoding R99). -/
def Job.embed (j : Job) (bits : List Bool) : List Line :=
  j.setup ++ [.loadWm bits, .set .wmLen (BitVec.ofNat 32 bits.length), .embed] ++ j.readBack ++ [.cmd .release]

/-- extract(image, L, cfg) (30_encoding R99). -/
def Job.extract (j : Job) (len : Nat) : List Line :=
  j.setup ++ [.set .wmLen (BitVec.ofNat 32 len), .extract]
    ++ ((List.range len).map fun p => Line.get .out p) ++ [.cmd .release]

end Sys2Proof.Machine
end

