-- ==== Sys2Proof/Safety.lean ====
section
/-! DEFINITION. What claims are stated in: runs, successful runs, the state invariant, and the contracts the spec
requires of the arithmetic by name (never assumed here). -/

namespace Sys2Proof

open Sys2Proof.Machine

/-! ## Runs -/

/-- A run has succeeded: stage 10 or 12 with no error recorded (46_control R236). -/
def Safety.succeeded (s : State) : Bool := (s.stage == .rgbaOut || s.stage == .decoded) && s.err == none

/-- The host has kept to the protocol so far in this run: neither ACC nor OVR is set (60_exceptions R262). -/
def Safety.hostBehaved (s : State) : Bool := !s.acc && !s.ovr

/-- Two states that a host cannot tell apart while no command is pending: all but PEND is equal (10_state R42). -/
def Safety.samePort (s t : State) : Prop := t = { s with pend := t.pend }

/-- The cell is the destination of no write of the command: its memory and index are outside the listed cells. -/
def Safety.untouched (s t : State) (cells : List (Space × Nat)) : Prop :=
  ∀ sp a, (sp, a) ∉ cells → t.cell sp a = s.cell sp a

/-- Every field but the memory, STAGE and DEGRADED is the same: what a command body may not change (46_control
R232, R233). -/
def Safety.sameRegisters (s t : State) : Prop :=
  t = { s with mem := t.mem, stage := t.stage, degraded := t.degraded }

/-! ## The state invariant -/

/-- PERM holds a bijection of [0, NBLOCKS) (44_permutation R200). -/
def Safety.PermOk (s : State) : Prop :=
  (∀ i, i < s.nblocks → s.permAt i < s.nblocks) ∧
    ∀ i j, i < s.nblocks → j < s.nblocks → s.permAt i = s.permAt j → i = j

/-- The stages that only PERMGEN leads to (46_control R233; log 19). -/
def Safety.afterPermgen : Stage → Bool
  | .mapped | .embedded | .rawbits | .decoded => true
  | .rgba | .ycbcr | .padded | .subbands | .blocked | .reassembled | .reconstructed | .unpadded | .rgbaOut => false

/-- Every address in the memory is that of a cell of the storage (10_state R35 to R41). -/
def Safety.StorageOk (P : Config.Params) (s : State) : Prop :=
  ∀ e ∈ s.mem, ∃ sp a, e.1 = Space.key sp a ∧ Space.inStorage P sp a = true

/-- The invariant of the machine. -/
structure Safety.Inv (P : Config.Params) (s : State) : Prop where
  /-- The memory is in canonical form. -/
  memWf : Mem.wf s.mem
  /-- Nothing is held outside the storage. -/
  storage : Safety.StorageOk P s
  /-- Outside stage 0 the configuration is the one CSC_FWD accepted (40_colour_pad R110, 46_control R236). -/
  config : s.stage ≠ .rgba → s.configOk = true ∧ s.dimsOk P = true
  /-- In the stages PERMGEN leads to, PERM is a bijection (44_permutation R200). -/
  perm : Safety.afterPermgen s.stage = true → Safety.PermOk s
  /-- After BEMBED or BEXTRACT the payload length is the one they accepted (43_block_codec R170, R171). -/
  wmLen : (s.stage = .embedded ∨ s.stage = .rawbits ∨ s.stage = .decoded) → s.wmLenOk P = true
  /-- After BEMBED the payload fits the blocks (43_block_codec R170). -/
  capacity : s.stage = .embedded → s.wmLenN ≤ s.nblocks
  /-- After BEXTRACT there is a block (43_block_codec R171). -/
  blocks : (s.stage = .rawbits ∨ s.stage = .decoded) → 0 < s.nblocks
  /-- DEGRADED counts (block, channel) pairs (10_state R33). -/
  degraded : s.degraded.toNat ≤ 3 * s.nblocks
  /-- DEGRADED is 0 before a block command of the run has finished (10_state R33). -/
  degradedZero : s.stage = .rgba → s.degraded = 0#32

/-! ## Contracts of the arithmetic, by the names the spec gives them -/

/-- A binary32 word that stands for a number from lo to hi. -/
def Safety.between (lo hi : Rat) (w : Word) : Prop :=
  F32.finite w = true ∧ lo ≤ F32.toRat w ∧ F32.toRat w ≤ hi

/-- Two binary32 words that stand for numbers at most eps apart. -/
def Safety.near (eps : Rat) (v w : Word) : Prop :=
  F32.finite w = true ∧ |F32.toRat w - F32.toRat v| ≤ eps

/-- CSC-ROUNDTRIP (40_colour_pad R112): within 1e-5 for channels in [0,1]. -/
def Safety.CscRoundtrip (N : Arith Word) (K : Config.Coef Word) : Prop :=
  ∀ p : Triple Word, Safety.between 0 1 p.x → Safety.between 0 1 p.y → Safety.between 0 1 p.z →
    Safety.near (1 / 100000) p.x (cscInvPixel N K (cscFwdPixel N K p)).x ∧
    Safety.near (1 / 100000) p.y (cscInvPixel N K (cscFwdPixel N K p)).y ∧
    Safety.near (1 / 100000) p.z (cscInvPixel N K (cscFwdPixel N K p)).z

/-- DWT-INVERSE (41_wavelet R133), and PAD-ROUNDTRIP (40_colour_pad R116) which restates it: within 1e-6 for cells of
magnitude at most 1 (93_implementation_defined U7). -/
def Safety.DwtInverse (N : Arith Word) : Prop :=
  ∀ q : Quad Word, Safety.between (-1) 1 q.q0 → Safety.between (-1) 1 q.q1 → Safety.between (-1) 1 q.q2 → Safety.between (-1) 1 q.q3 →
    Safety.near (1 / 1000000) q.q0 (haarSynthesis N (haarAnalysis N q)).q0 ∧
    Safety.near (1 / 1000000) q.q1 (haarSynthesis N (haarAnalysis N q)).q1 ∧
    Safety.near (1 / 1000000) q.q2 (haarSynthesis N (haarAnalysis N q)).q2 ∧
    Safety.near (1 / 1000000) q.q3 (haarSynthesis N (haarAnalysis N q)).q3

/-- DCT-INVERSE (43_block_codec R162): within 1e-6 for cells of the order of an LL block (93_implementation_defined
U7). -/
def Safety.DctInverse (N : Arith Word) : Prop :=
  ∀ B : Mat Word, (∀ u v, Safety.between (-1) 2 (B u v)) → ∀ u v, Safety.near (1 / 1000000) (B u v) (dct3 N cdct (dct2 N cdct B) u v)

/-- The constraints 40_colour_pad R113 puts on a choice of coefficients. -/
def Safety.CoefOk (K : Config.Coef Rat) : Prop :=
  K.kr + K.kg + K.kb = 1 ∧ K.kg ≠ 0 ∧ K.db ≠ 0 ∧ K.dr ≠ 0

/-- The constraints 00_scope R7 and 44_permutation R204 put on the parameters. -/
def Safety.ParamsOk (P : Config.Params) : Prop :=
  maxDimOk P.maxDim = true ∧ maxWmOk P.maxWm = true ∧ PermBij P.shuffle

end Sys2Proof
end

