-- ==== Sys2Proof/Certificates/Slice0/Obligations.lean ====
section
/-! DEFINITION. The statements for the provers. Each docstring names the rule of spec/ it formalises. -/

open Sys2Proof Sys2Proof.Machine

/-! ## Encoding and decoding -/

/-- Decoding and encoding agree in both directions: every command is read back from its word, and no other word is
that command (30_encoding R90, R91). -/
def Obligations.DecodingIsExact : Prop :=
  (∀ i : Instr, i.wellFormed = true → decodeWord (encode i) = .ok i) ∧
    ∀ (w : Word) (i : Instr), decodeWord w = .ok i → w = encode i

/-- Words written out from the table of 30_encoding R91, one for each section file of commands. -/
def Obligations.DecodeSampleWords : Prop :=
  decodeWord 0x00000000#32 = .ok .nop ∧ decodeWord 0x00000001#32 = .ok .cscFwd ∧
    decodeWord 0x00000003#32 = .ok .dwt ∧ decodeWord 0x00000007#32 = .ok .reasm ∧
    decodeWord 0x0000000B#32 = .ok .bextract ∧ decodeWord 0x00000005#32 = .ok .permgen ∧
    decodeWord 0x0000000C#32 = .ok .vote ∧ decodeWord 0x0000000F#32 = .ok .release ∧
    decodeWord 0x00000101#32 = .error .zeroFieldNotZero ∧ decodeWord 0x0000000D#32 = .error (.reservedOpcode 0x0D#8)

/-- 30_encoding R93: the words that are commands are exactly those with bits 31:8 zero and OPC 0x00 to 0x0C or
0x0F; any other word written to CMD of an idle unit is accepted and fails with E_OPCODE at completion, changing no
other state. -/
def Obligations.IllegalWordsFailWithOpcodeError : Prop :=
  (∀ w : Word, (∃ i, decodeWord w = .ok i) ↔ w.toNat ≤ 0x0C ∨ w.toNat = 0x0F) ∧
    ∀ (s : State) (w : Word), ¬ (w.toNat ≤ 0x0C ∨ w.toNat = 0x0F) → s.busy = false →
      s.host = [.write 0x00#8 32 w, .unit] →
      step s = .next { s with host := [.unit], pend := w, busy := true } ∧
        Host.Core.run core 2 s
          = .next { s with host := [], pend := w, err := if s.err = none then some .opcode else s.err }

/-! ## Steps -/

/-- A step runs the pending command (46_control R231, R232): when BUSY = 1 and PEND decodes to i, the unit's turn is
exec of i, then BUSY is 0. The unit has its turn when the script is used up or says so (log 4). -/
def Obligations.StepRunsThePendingCommand : Prop :=
  ∀ (s : State) (i : Instr), s.busy = true → decodeWord s.pend = .ok i →
    (s.host = [] → ∀ t, exec i s = .next t → step s = .next { t with busy := false }) ∧
      ∀ rest, s.host = .unit :: rest → ∀ t, exec i { s with host := rest } = .next t →
        step s = .next { t with busy := false }

/-- A step performs the turn of the host at the head of the script, and a unit with nothing pending idles (20_memory
R72, 46_control R231). A wait reads STATUS, passes when BUSY is 0, and lets the unit move and reads again when it is 1;
a FILL becomes one PUT for each cell of the write extent at that moment (30_encoding R95, R96; with an error recorded,
log 24). The script is the model's own (log 4, 21). -/
def Obligations.StepPerformsTheHostsTurn : Prop :=
  ∀ (s : State) (off : BitVec 8) (bits : Nat) (w : Word) (sp : Space) (rest : List Turn),
    (s.host = .write off bits w :: rest → step s = .next ({ s with host := rest }.hostWrite params off bits w)) ∧
    (s.host = .read off bits :: rest →
      step s = .next { ({ s with host := rest }.hostRead params off bits).2 with
        rdata := ({ s with host := rest }.hostRead params off bits).1 }) ∧
    (s.busy = false → s.host = .unit :: rest → step s = .next { s with host := rest }) ∧
    (s.busy = false → s.host = [] → step s = .next s) ∧
    (s.busy = false → s.host = .wait :: rest → step s = .next { s with host := rest, rdata := s.statusWord }) ∧
    (s.busy = true → s.host = .wait :: rest →
      step s = .next { s with host := .unit :: .wait :: rest, rdata := s.statusWord }) ∧
    (s.host = .fill sp w :: rest →
      step s = .next { s with host := (match sp with
        | .plane k => if s.stage = .rgba ∧ (s.err = none ∨ params.errLocks = false) then
            (List.range s.height.toNat).flatMap fun r => (List.range s.width.toNat).flatMap fun c =>
              putTurns (.plane k) (rc r c) w
            else []
        | .wm => if s.stage = .rgba ∧ (s.err = none ∨ params.errLocks = false) then
            (List.range params.maxWm).flatMap fun p => putTurns .wm p w
            else []
        | _ => []) ++ rest })

/-- No state is without a next state (70_reset_and_hazards R291). -/
def Obligations.EveryStateHasANextState : Prop := ∀ s : State, ∃ t, step s = .next t

/-- STAGE changes only at the completion of a command or at reset (10_state R21). -/
def Obligations.StageMovesOnlyAtCompletionOrReset : Prop :=
  ∀ s t : State, step s = .next t → t.stage ≠ s.stage →
    (s.host.head? = some .reset ∧ t.stage = .rgba) ∨
      (s.busy = true ∧ t.busy = false ∧ (s.host = [] ∨ s.host.head? = some .unit))

/-- PEND means nothing while BUSY is 0 (10_state R42): two states that differ in PEND alone step to states that
differ in PEND at most, and not at all once a command has been accepted. -/
def Obligations.PendIsNotObservableWhileIdle : Prop :=
  ∀ (s t : State) (p : Word), s.busy = false → step s = .next t →
    ∃ u, step { s with pend := p } = .next u ∧ Safety.samePort t u ∧ (t.busy = true → u = t)

/-! ## The host port -/

/-- 46_control R230: a write to CMD is accepted when BUSY = 0, whatever the word, the stage or a recorded error; it
is dropped with OVR when BUSY = 1. Nothing else changes. -/
def Obligations.CommandWriteIsAcceptedOrDropped : Prop :=
  ∀ (s : State) (w : Word),
    (s.busy = true → s.hostWrite params 0x00#8 32 w = { s with ovr := true }) ∧
      (s.busy = false → s.hostWrite params 0x00#8 32 w = { s with pend := w, busy := true })

/-- While BUSY is 1 every access but a read of CMD, STATUS and STAGE is refused, a CMD write sets OVR, and nothing
else changes (20_memory R61, R73, 70_reset_and_hazards R284). That a narrow or wide read of STATUS or STAGE is refused
too is the model's reading of 20_memory R61 and R69 against the last sentence of R66 (log 20). -/
def Obligations.BusyRefusesTheHost : Prop :=
  ∀ (s : State) (off : BitVec 8) (bits : Nat) (w : Word), s.busy = true →
    s.hostWrite params off bits w
      = (if bits = 32 ∧ off = 0x00#8 then { s with ovr := true } else { s with acc := true }) ∧
    s.hostRead params off bits
      = (if bits = 32 ∧ off = 0x00#8 then (0#32, s)
         else if bits = 32 ∧ off = 0x04#8 then (s.statusWord, s)
         else if bits = 32 ∧ off = 0x08#8 then (s.stage.code.zeroExtend 32, s)
         else (0#32, { s with acc := true }))

/-- Outside stage 0 the host can write CMD, PSEL and PADDR and nothing else: configuration, planes and payload are
locked (20_memory R61, R65, 70_reset_and_hazards R285). PSEL and PADDR are writable in every stage while BUSY is 0, and
in stage 0 too; PSEL keeps 5 bits, PADDR all 32, both read back (10_state R34). In every stage with BUSY = 0 a write of
a read-only register is refused (20_memory R61), and so is a write of PDATA for a plane cell outside HEIGHT x WIDTH,
for WM from MAXWM on, for every cell of the other memories, and for PSEL 23 to 31 (20_memory R60, R63, R65). Where a
recorded error locks the inputs in stage 0, which the spec leaves open (60_exceptions R254; log 24), a write of a
configuration register or of PDATA is refused while one is recorded. -/
def Obligations.InputsAreLockedOutsideStageZero : Prop :=
  (∀ (s : State) (off : BitVec 8) (bits : Nat) (w : Word), s.busy = false → s.stage ≠ .rgba →
    ¬ (bits = 32 ∧ (off = 0x00#8 ∨ off = 0x44#8 ∨ off = 0x48#8)) →
    s.hostWrite params off bits w = { s with acc := true }) ∧
  (∀ (s : State) (w : Word), s.busy = false → ∀ off ∈ [0x04#8, 0x08#8, 0x2C#8, 0x30#8, 0x34#8, 0x38#8, 0x3C#8, 0x40#8],
    s.hostWrite params off 32 w = { s with acc := true }) ∧
  (∀ (s : State) (w : Word) (sp : Space), s.busy = false → s.psel.toNat = sp.code →
    (match sp with
      | .plane _ => ¬ (rowOf s.paddr.toNat < s.height.toNat ∧ colOf s.paddr.toNat < s.width.toNat)
      | .wm => ¬ s.paddr.toNat < params.maxWm
      | .sub _ _ => True
      | .blk _ => True
      | .out => True
      | .raw => True
      | .perm => True) →
    s.hostWrite params 0x4C#8 32 w = { s with acc := true }) ∧
  (∀ (s : State) (w : Word), s.busy = false → 23 ≤ s.psel.toNat →
    s.hostWrite params 0x4C#8 32 w = { s with acc := true }) ∧
  (∀ (P : Config.Params) (s : State) (w : Word), P.errLocks = true → s.err ≠ none → s.busy = false →
    ∀ off ∈ [0x0C#8, 0x10#8, 0x14#8, 0x18#8, 0x1C#8, 0x20#8, 0x24#8, 0x28#8, 0x4C#8],
      s.hostWrite P off 32 w = { s with acc := true }) ∧
  ∀ (s : State) (w : Word), s.busy = false →
    s.hostWrite params 0x44#8 32 w = { s with psel := w.extractLsb' 0 5 } ∧
    s.hostWrite params 0x48#8 32 w = { s with paddr := w } ∧
    (s.hostWrite params 0x44#8 32 w).hostRead params 0x44#8 32
      = (w &&& 0x0000001F#32, { s with psel := w.extractLsb' 0 5 }) ∧
    (s.hostWrite params 0x48#8 32 w).hostRead params 0x48#8 32 = (w, { s with paddr := w })

/-- Reserved offsets, misaligned offsets and other widths are refused in every state: a read returns 0, a write
changes nothing, both set ACC (10_state R43, 20_memory R69). That this holds of a narrow or wide read of STATUS and
STAGE too is the model's reading, since the last sentence of 20_memory R66 says otherwise (log 20). -/
def Obligations.ReservedAndMisalignedAccessesAreRefused : Prop :=
  ∀ (s : State) (off : BitVec 8) (bits : Nat) (w : Word),
    bits ≠ 32 ∨ off.toNat % 4 ≠ 0 ∨ 0x50 ≤ off.toNat →
    s.hostWrite params off bits w = { s with acc := true } ∧
      s.hostRead params off bits = (0#32, { s with acc := true })

/-- In stage 0 with BUSY = 0 a configuration register keeps its named bits of the word written and reads them back
with the others 0 (20_memory R61, 10_state R26 to R31); with an error recorded too, where that does not lock the
inputs, which the spec leaves open (60_exceptions R254; log 24). -/
def Obligations.ConfigRegistersKeepTheirFields : Prop :=
  ∀ (s : State) (w : Word), s.busy = false → s.stage = .rgba → s.err = none ∨ params.errLocks = false →
    s.hostWrite params 0x0C#8 32 w = { s with height := w.extractLsb' 0 16 } ∧
    s.hostWrite params 0x10#8 32 w = { s with width := w.extractLsb' 0 16 } ∧
    s.hostWrite params 0x14#8 32 w = { s with strength1 := w.extractLsb' 0 16 } ∧
    s.hostWrite params 0x18#8 32 w = { s with strength2 := w.extractLsb' 0 16 } ∧
    s.hostWrite params 0x1C#8 32 w = { s with mode := w.extractLsb' 0 2 } ∧
    s.hostWrite params 0x20#8 32 w = { s with seedLo := w } ∧
    s.hostWrite params 0x24#8 32 w = { s with seedHi := w } ∧
    s.hostWrite params 0x28#8 32 w = { s with wmLen := w } ∧
    ∀ off ∈ [0x0C#8, 0x10#8, 0x14#8, 0x18#8, 0x1C#8, 0x20#8, 0x24#8, 0x28#8],
      (s.hostWrite params off 32 w).hostRead params off 32
        = (w &&& (if off = 0x1C#8 then 0x00000003#32 else if off.toNat < 0x20 then 0x0000FFFF#32 else 0xFFFFFFFF#32),
           s.hostWrite params off 32 w)

/-- PH, PW, BROWS, BCOLS, NBLOCKS and STATUS.REM read as their functions of HEIGHT and WIDTH, with no wrap
(10_state R32, 00_scope R11), without effect (20_memory R61). -/
def Obligations.DerivedRegistersReadTheirFormulas : Prop :=
  ∀ s : State, s.busy = false →
    let h := s.height.toNat
    let w := s.width.toNat
    (s.hostRead params 0x2C#8 32).1.toNat = h + h % 2 ∧
    (s.hostRead params 0x30#8 32).1.toNat = w + w % 2 ∧
    (s.hostRead params 0x34#8 32).1.toNat = (h + h % 2) / 2 / 4 ∧
    (s.hostRead params 0x38#8 32).1.toNat = (w + w % 2) / 2 / 4 ∧
    (s.hostRead params 0x3C#8 32).1.toNat = (h + h % 2) / 2 / 4 * ((w + w % 2) / 2 / 4) ∧
    (s.hostRead params 0x04#8 32).1.getLsbD 3
      = decide ((h + h % 2) / 2 % 4 ≠ 0 ∨ (w + w % 2) / 2 % 4 ≠ 0) ∧
    ∀ off ∈ [0x2C#8, 0x30#8, 0x34#8, 0x38#8, 0x3C#8, 0x04#8], (s.hostRead params off 32).2 = s

/-- The fields of STATUS (10_state R24) and the codes of ERR (60_exceptions R250); CMD reads 0 and STAGE reads its code
in bits 3:0 (10_state R25) in every state, DEGRADED reads its count while BUSY is 0 (10_state R33), each without effect
(20_memory R61). -/
def Obligations.StatusFieldsReadAsLaidOut : Prop :=
  ∀ s : State,
    let w := (s.hostRead params 0x04#8 32).1
    w.getLsbD 0 = s.busy ∧ w.getLsbD 1 = s.ovr ∧ w.getLsbD 2 = s.acc ∧ w.extractLsb' 8 24 = 0#24 ∧
      w.extractLsb' 4 4 = (match s.err with
        | none => 0#4
        | some .opcode => 1#4
        | some .stage => 2#4
        | some .config => 3#4
        | some .dim => 4#4
        | some .capacity => 5#4
        | some .wmlen => 6#4
        | some .noblocks => 7#4) ∧
      (s.hostRead params 0x04#8 32).2 = s ∧
      s.hostRead params 0x00#8 32 = (0x00000000#32, s) ∧
      s.hostRead params 0x08#8 32 = (match s.stage with
        | .rgba => 0#32
        | .ycbcr => 1#32
        | .padded => 2#32
        | .subbands => 3#32
        | .blocked => 4#32
        | .mapped => 5#32
        | .embedded => 6#32
        | .reassembled => 7#32
        | .reconstructed => 8#32
        | .unpadded => 9#32
        | .rgbaOut => 10#32
        | .rawbits => 11#32
        | .decoded => 12#32, s) ∧
      (s.busy = false → s.hostRead params 0x40#8 32 = (s.degraded, s))

/-- The extents of 10_state R46 in the stage codes: the cells of a space that the host can read. -/
def Sys2Proof.extentTable (s : State) (a : Nat) : Space → Prop
  | .plane k =>
    (s.stage.code ∈ [0#4, 1#4, 9#4, 10#4] ∧ rowOf a < s.height.toNat ∧ colOf a < s.width.toNat) ∨
    ((s.stage.code ∈ [2#4, 8#4] ∨ (k = 3 ∧ s.stage.code ∈ [3#4, 4#4, 5#4, 6#4, 7#4, 11#4, 12#4])) ∧
      rowOf a < s.ph ∧ colOf a < s.pw)
  | .sub _ _ => s.stage.code ∈ [3#4, 4#4, 5#4, 6#4, 7#4, 11#4, 12#4] ∧ rowOf a < s.llr ∧ colOf a < s.llc
  | .blk _ => s.stage.code ∈ [4#4, 5#4, 6#4, 11#4, 12#4] ∧ a / 16 < s.nblocks
  | .wm => a < params.maxWm
  | .out => s.stage.code = 12#4 ∧ a < s.wmLen.toNat
  | .raw => s.stage.code ∈ [11#4, 12#4] ∧ a < s.nblocks
  | .perm => s.stage.code ∈ [5#4, 6#4, 7#4, 8#4, 9#4, 10#4, 11#4, 12#4] ∧ a < s.nblocks

/-- The window. With BUSY = 0, in every stage, a read of PDATA returns the selected cell and changes nothing when the
address lies inside the extent the space has in the stage, and is refused outside it and for PSEL 23 to 31 (20_memory
R60, R62, R65, 10_state R46). In stage 0 a PUT of a plane cell inside HEIGHT x WIDTH followed by a GET of it returns
the word, whatever it encodes, and no other cell changes (20_memory R62 to R65, 30_encoding R96). HEIGHT and WIDTH at
most MAXDIM keep the cell inside the storage (log 17). The PUT is performed with an error recorded too, where that does
not lock the inputs, which the spec leaves open (60_exceptions R254; log 24). -/
def Obligations.PlaneCellReadsBackWhatTheHostPut : Prop :=
  (∀ (s : State) (sp : Space), s.busy = false → s.psel.toNat = sp.code →
    (extentTable s s.paddr.toNat sp → s.hostRead params 0x4C#8 32 = (s.cell sp s.paddr.toNat, s)) ∧
    (¬ extentTable s s.paddr.toNat sp → s.hostRead params 0x4C#8 32 = (0#32, { s with acc := true }))) ∧
  (∀ s : State, s.busy = false → 23 ≤ s.psel.toNat → s.hostRead params 0x4C#8 32 = (0#32, { s with acc := true })) ∧
  ∀ (s : State) (k : Fin 4) (r c : Nat) (w : Word), s.busy = false → s.stage = .rgba →
    s.err = none ∨ params.errLocks = false →
    r < s.height.toNat → c < s.width.toNat → s.height.toNat ≤ params.maxDim → s.width.toNat ≤ params.maxDim →
    s.host = putTurns (.plane k) (rc r c) w ++ getTurns (.plane k) (rc r c) →
    ∃ t, Host.Core.run core 8 s = .next t ∧ t.rdata = w ∧
      t = { s with psel := t.psel, paddr := t.paddr, mem := t.mem, host := [], rdata := w } ∧
      t.cell (.plane k) (rc r c) = w ∧
      ∀ sp a, ¬ (sp = .plane k ∧ a = rc r c) → t.cell sp a = s.cell sp a

/-- A payload cell keeps bit 0 of the word the host puts (20_memory R63), in stage 0, for every p below MAXWM. It does
so with an error recorded too, where that does not lock the inputs, which the spec leaves open (60_exceptions R254; log
24). -/
def Obligations.PayloadCellKeepsBitZero : Prop :=
  ∀ (s : State) (p : Nat) (w : Word), s.busy = false → s.stage = .rgba → s.err = none ∨ params.errLocks = false →
    p < params.maxWm →
    s.host = putTurns .wm p w ++ getTurns .wm p →
    ∃ t, Host.Core.run core 8 s = .next t ∧ t.rdata = w &&& 1#32 ∧ t.acc = s.acc ∧
      ∀ sp a, ¬ (sp = .wm ∧ a = p) → t.cell sp a = s.cell sp a

/-! ## Control, errors, reset -/

/-- 46_control R234: NOP reads and writes nothing, in any stage, with or without a recorded error; BUSY goes back to
0 at its completion, which is the unit's turn, or the step of a used-up script (log 4). -/
def Obligations.NopChangesNothing : Prop :=
  ∀ s : State, exec .nop s = .next s ∧
    (s.busy = true → s.pend = 0x00000000#32 →
      (∀ rest, s.host = .unit :: rest → step s = .next { s with busy := false, host := rest }) ∧
      (s.host = [] → step s = .next { s with busy := false }))

/-- 46_control R235: RELEASE sets STAGE, ERR, OVR, ACC and DEGRADED to 0 and changes nothing else, in any stage, with
or without a recorded error; it cannot fail. -/
def Obligations.ReleaseEndsTheRun : Prop :=
  ∀ s : State, exec .release s
    = .next { s with stage := .rgba, err := none, ovr := false, acc := false, degraded := 0#32 }

/-- The table of 46_control R233 in its codes: legal stages, next stage (none: unchanged), own errors. -/
def Sys2Proof.stageTable : Instr → List (BitVec 4) × Option (BitVec 4) × List ErrCode
  | .nop => ([0, 1, 2, 3, 4, 5, 6, 7, 8, 9, 10, 11, 12], none, [])
  | .cscFwd => ([0], some 1, [.config, .dim])
  | .pad => ([1], some 2, [])
  | .dwt => ([2], some 3, [])
  | .block => ([3], some 4, [])
  | .permgen => ([4], some 5, [])
  | .bembed => ([5], some 6, [.wmlen, .capacity])
  | .reasm => ([4, 5, 6], some 7, [])
  | .idwt => ([3, 7], some 8, [])
  | .unpad => ([2, 8], some 9, [])
  | .cscInv => ([1, 9], some 10, [])
  | .bextract => ([5], some 11, [.wmlen, .noblocks])
  | .vote => ([11], some 12, [])
  | .release => ([0, 1, 2, 3, 4, 5, 6, 7, 8, 9, 10, 11, 12], some 0, [])

/-- 46_control R233: with no error recorded, a command in a stage its row lists leads to its next stage or raises one
of its own errors; in any other stage it fails with E_STAGE and changes nothing else. -/
def Obligations.CommandsFollowTheStageTable : Prop :=
  ∀ (i : Instr) (s : State), s.err = none →
    (s.stage.code ∉ (stageTable i).1 → exec i s = .next { s with err := some .stage }) ∧
    (s.stage.code ∈ (stageTable i).1 → ∃ t, exec i s = .next t ∧
      ((t.err = none ∧ t.stage.code = (stageTable i).2.1.getD s.stage.code) ∨
        ∃ e ∈ (stageTable i).2.2, t = { s with err := some e }))

/-- 60_exceptions R253: fail records the code when none is recorded and changes nothing else; so does every command
that fails (no cell, no stage, no count, no register). At the unit's turn, or when the script is used up, a pending
command completes: BUSY is 0 after the step (46_control R231; log 4). -/
def Obligations.FailureChangesOnlyTheErrorCode : Prop :=
  (∀ (s : State) (e : ErrCode), s.err = none → s.fail e = { s with err := some e }) ∧
  (∀ (s : State) (e : ErrCode), s.err ≠ none → s.fail e = s) ∧
  (∀ (i : Instr) (s t : State), i ≠ .release → exec i s = .next t → t.err ≠ s.err →
    s.err = none ∧ t = { s with err := t.err }) ∧
  ∀ s t : State, s.busy = true → s.host = [] ∨ s.host.head? = some .unit → step s = .next t → t.busy = false

/-- While an error is recorded every command but RELEASE completes with no effect, and until RELEASE or reset every
step changes BUSY, PEND, OVR, ACC, PSEL and PADDR at most, beside the model's own script and returned word
(60_exceptions R254). Where a recorded error does not lock the inputs, the host's writes of a configuration register or of
PDATA in stage 0 are excepted, by 20_memory R61, R63, R65 and R75; the spec's rules disagree, and the model leaves it
open (log 24). -/
def Obligations.RecordedErrorRefusesCommands : Prop :=
  (∀ (i : Instr) (s : State), s.err ≠ none → i ≠ .release → exec i s = .next s) ∧
  ∀ s t : State, s.err ≠ none → step s = .next t → s.host.head? ≠ some .reset →
    (s.busy = true → s.pend ≠ 0x0000000F#32) →
    (params.errLocks = false → s.stage = .rgba → ∀ (off : BitVec 8) (w : Word) (rest : List Turn),
      s.host = .write off 32 w :: rest →
      off ∉ [0x0C#8, 0x10#8, 0x14#8, 0x18#8, 0x1C#8, 0x20#8, 0x24#8, 0x28#8, 0x4C#8]) →
    t = { s with busy := t.busy, pend := t.pend, ovr := t.ovr, acc := t.acc, psel := t.psel, paddr := t.paddr,
                 host := t.host, rdata := t.rdata }

/-- CSC_FWD checks the strengths before the dimensions and changes nothing but ERR when a check fails (40_colour_pad
R110, 60_exceptions R252). -/
def Obligations.CscFwdChecksConfigThenDimensions : Prop :=
  ∀ s : State, s.err = none → s.stage = .rgba →
    (s.strength1 = 0#16 ∨ (s.mode.getLsbD 1 = true ∧ s.strength2 = 0#16) →
      exec .cscFwd s = .next { s with err := some .config }) ∧
    (¬ (s.strength1 = 0#16 ∨ (s.mode.getLsbD 1 = true ∧ s.strength2 = 0#16)) →
      s.height = 0#16 ∨ s.width = 0#16 ∨ params.maxDim < s.height.toNat ∨ params.maxDim < s.width.toNat →
      exec .cscFwd s = .next { s with err := some .dim })

/-- BEMBED checks the payload length before the capacity and touches no block when a check fails (43_block_codec R170,
60_exceptions R252). -/
def Obligations.BembedChecksLengthThenCapacity : Prop :=
  ∀ s : State, s.err = none → s.stage = .mapped →
    (s.wmLen = 0#32 ∨ params.maxWm < s.wmLen.toNat → exec .bembed s = .next { s with err := some .wmlen }) ∧
    (s.wmLen ≠ 0#32 → s.wmLen.toNat ≤ params.maxWm → s.nblocks < s.wmLen.toNat →
      exec .bembed s = .next { s with err := some .capacity })

/-- BEXTRACT checks the payload length before the number of blocks and touches nothing when a check fails
(43_block_codec R171, 60_exceptions R252). -/
def Obligations.BextractChecksLengthThenBlocks : Prop :=
  ∀ s : State, s.err = none → s.stage = .mapped →
    (s.wmLen = 0#32 ∨ params.maxWm < s.wmLen.toNat → exec .bextract s = .next { s with err := some .wmlen }) ∧
    (s.wmLen ≠ 0#32 → s.wmLen.toNat ≤ params.maxWm → s.nblocks = 0 →
      exec .bextract s = .next { s with err := some .noblocks })

/-- 70_reset_and_hazards R281: the values the spec gives for reset, in State.reset and after a reset at any moment;
memory holds nothing known (the empty list, log 1), and CSC_FWD right after reset fails with E_DIM. -/
def Obligations.ResetLeavesTheSpecifiedValues : Prop :=
  ∀ t : State, (t = State.reset ∨ ∃ s rest, s.host = .reset :: rest ∧ step s = .next t) →
    t.statusWord = 0#32 ∧ t.stage.code = 0#4 ∧ t.height = 0#16 ∧ t.width = 0#16 ∧ t.strength1 = 36#16 ∧
    t.strength2 = 0#16 ∧ t.mode = 0#2 ∧ t.seedLo = 0#32 ∧ t.seedHi = 0#32 ∧ t.wmLen = 0#32 ∧ t.degraded = 0#32 ∧
    t.psel = 0#5 ∧ t.paddr = 0#32 ∧ t.ph = 0 ∧ t.pw = 0 ∧ t.brows = 0 ∧ t.bcols = 0 ∧ t.nblocks = 0 ∧ t.mem = [] ∧
    exec .cscFwd t = .next { t with err := some .dim }

/-! ## Colour converter and padder -/

/-- CSC_FWD runs on a valid configuration: Y, Cb, Cr of every pixel in the order of 40_colour_pad R110; no other cell
and no other register changes. -/
def Obligations.CscFwdConvertsEveryPixel : Prop :=
  ∀ s : State, s.err = none → s.stage = .rgba → s.strength1 ≠ 0#16 →
    (s.mode.getLsbD 1 = true → s.strength2 ≠ 0#16) → s.height ≠ 0#16 → s.width ≠ 0#16 →
    s.height.toNat ≤ params.maxDim → s.width.toNat ≤ params.maxDim →
    ∃ t, exec .cscFwd s = .next t ∧ Safety.sameRegisters s t ∧ t.stage = .ycbcr ∧ t.degraded = s.degraded ∧
      (∀ r c, r < s.height.toNat → c < s.width.toNat →
        let N := params.num
        let K := params.coef
        let y := N.add (N.add (N.mul K.kr (s.cell (.plane 0) (rc r c))) (N.mul K.kg (s.cell (.plane 1) (rc r c))))
          (N.mul K.kb (s.cell (.plane 2) (rc r c)))
        t.cell (.plane 0) (rc r c) = y ∧
        t.cell (.plane 1) (rc r c) = N.div (N.sub (s.cell (.plane 2) (rc r c)) y) K.db ∧
        t.cell (.plane 2) (rc r c) = N.div (N.sub (s.cell (.plane 0) (rc r c)) y) K.dr) ∧
      ∀ sp a, ¬ ((sp = .plane 0 ∨ sp = .plane 1 ∨ sp = .plane 2) ∧ rowOf a < s.height.toNat ∧
        colOf a < s.width.toNat) → t.cell sp a = s.cell sp a

/-- CSC_INV runs in stages 1 and 9: R, G, B of every pixel in the order of 40_colour_pad R111; no other cell and no
other register changes. -/
def Obligations.CscInvConvertsEveryPixelBack : Prop :=
  ∀ s : State, s.err = none → s.stage = .ycbcr ∨ s.stage = .unpadded →
    ∃ t, exec .cscInv s = .next t ∧ Safety.sameRegisters s t ∧ t.stage = .rgbaOut ∧ t.degraded = s.degraded ∧
      (∀ r c, r < s.height.toNat → c < s.width.toNat →
        let N := params.num
        let K := params.coef
        let y := s.cell (.plane 0) (rc r c)
        let rr := N.add y (N.mul K.dr (s.cell (.plane 2) (rc r c)))
        let bb := N.add y (N.mul K.db (s.cell (.plane 1) (rc r c)))
        t.cell (.plane 0) (rc r c) = rr ∧
        t.cell (.plane 1) (rc r c) = N.div (N.sub (N.sub y (N.mul K.kr rr)) (N.mul K.kb bb)) K.kg ∧
        t.cell (.plane 2) (rc r c) = bb) ∧
      ∀ sp a, ¬ ((sp = .plane 0 ∨ sp = .plane 1 ∨ sp = .plane 2) ∧ rowOf a < s.height.toNat ∧
        colOf a < s.width.toNat) → t.cell sp a = s.cell sp a

/-- PAD runs in stage 1: +0.0 in row HEIGHT when HEIGHT is odd and in column WIDTH when WIDTH is odd, of all four
planes; no other cell and no other register changes (40_colour_pad R114). -/
def Obligations.PadWritesThePaddingCells : Prop :=
  ∀ s : State, s.err = none → s.stage = .ycbcr →
    ∃ t, exec .pad s = .next t ∧ Safety.sameRegisters s t ∧ t.stage = .padded ∧ t.degraded = s.degraded ∧
      (∀ (k : Fin 4) (c : Nat), s.height.toNat % 2 = 1 → c < s.pw →
        t.cell (.plane k) (rc s.height.toNat c) = 0x00000000#32) ∧
      (∀ (k : Fin 4) (r : Nat), s.width.toNat % 2 = 1 → r < s.ph →
        t.cell (.plane k) (rc r s.width.toNat) = 0x00000000#32) ∧
      ∀ sp a, ¬ (∃ k, sp = .plane k ∧
          ((s.height.toNat % 2 = 1 ∧ rowOf a = s.height.toNat ∧ colOf a < s.pw) ∨
           (s.width.toNat % 2 = 1 ∧ colOf a = s.width.toNat ∧ rowOf a < s.ph))) → t.cell sp a = s.cell sp a

/-- UNPAD runs in stages 2 and 8 and changes the stage only (40_colour_pad R115). -/
def Obligations.UnpadChangesOnlyTheStage : Prop :=
  ∀ s : State, s.err = none → s.stage = .padded ∨ s.stage = .reconstructed →
    exec .unpad s = .next { s with stage := .unpadded }

/-- PAD followed by UNPAD leaves every cell inside HEIGHT x WIDTH of the four planes bit for bit as it was
(40_colour_pad R116 (a)). -/
def Obligations.PadThenUnpadRestoresThePlanes : Prop :=
  ∀ s : State, s.err = none → s.stage = .ycbcr →
    ∃ t u, exec .pad s = .next t ∧ exec .unpad t = .next u ∧ u.stage = .unpadded ∧
      ∀ (k : Fin 4) (r c : Nat), r < s.height.toNat → c < s.width.toNat →
        u.cell (.plane k) (rc r c) = s.cell (.plane k) (rc r c)

/-- No command writes a cell of the alpha plane inside HEIGHT x WIDTH (10_state R35). -/
def Obligations.NoCommandWritesAlpha : Prop :=
  ∀ (i : Instr) (s t : State) (r c : Nat), exec i s = .next t → r < s.height.toNat → c < s.width.toNat →
    t.cell (.plane 3) (rc r c) = s.cell (.plane 3) (rc r c)

/-! ## Wavelet stage -/

/-- DWT runs in stage 2: the four filters on every 2x2 neighbourhood of the three channels, in the order of 41_wavelet
R130; no other cell and no other register changes. -/
def Obligations.DwtFiltersEveryNeighbourhood : Prop :=
  ∀ s : State, s.err = none → s.stage = .padded →
    ∃ t, exec .dwt s = .next t ∧ Safety.sameRegisters s t ∧ t.stage = .subbands ∧ t.degraded = s.degraded ∧
      (∀ (ch : Ch) (i j : Nat), i < s.llr → j < s.llc →
        let N := params.num
        let two := N.const 2 1
        let a := s.cell (planeOf ch) (rc (2 * i) (2 * j))
        let b := s.cell (planeOf ch) (rc (2 * i) (2 * j + 1))
        let d := s.cell (planeOf ch) (rc (2 * i + 1) (2 * j))
        let e := s.cell (planeOf ch) (rc (2 * i + 1) (2 * j + 1))
        t.cell (.sub ch .ll) (rc i j) = N.div (N.add (N.add (N.add a b) d) e) two ∧
        t.cell (.sub ch .hl) (rc i j) = N.div (N.sub (N.add (N.sub a b) d) e) two ∧
        t.cell (.sub ch .lh) (rc i j) = N.div (N.sub (N.sub (N.add a b) d) e) two ∧
        t.cell (.sub ch .hh) (rc i j) = N.div (N.add (N.sub (N.sub a b) d) e) two) ∧
      ∀ sp a, ¬ (∃ ch b, sp = .sub ch b ∧ rowOf a < s.llr ∧ colOf a < s.llc) → t.cell sp a = s.cell sp a

/-- IDWT runs in stages 3 and 7: the four cells of every neighbourhood from its subband cells, in the order of
41_wavelet R131; no other cell and no other register changes. -/
def Obligations.IdwtRebuildsEveryNeighbourhood : Prop :=
  ∀ s : State, s.err = none → s.stage = .subbands ∨ s.stage = .reassembled →
    ∃ t, exec .idwt s = .next t ∧ Safety.sameRegisters s t ∧ t.stage = .reconstructed ∧ t.degraded = s.degraded ∧
      (∀ (ch : Ch) (i j : Nat), i < s.llr → j < s.llc →
        let N := params.num
        let two := N.const 2 1
        let l := s.cell (.sub ch .ll) (rc i j)
        let h := s.cell (.sub ch .hl) (rc i j)
        let v := s.cell (.sub ch .lh) (rc i j)
        let x := s.cell (.sub ch .hh) (rc i j)
        t.cell (planeOf ch) (rc (2 * i) (2 * j)) = N.div (N.add (N.add (N.add l h) v) x) two ∧
        t.cell (planeOf ch) (rc (2 * i) (2 * j + 1)) = N.div (N.sub (N.add (N.sub l h) v) x) two ∧
        t.cell (planeOf ch) (rc (2 * i + 1) (2 * j)) = N.div (N.sub (N.sub (N.add l h) v) x) two ∧
        t.cell (planeOf ch) (rc (2 * i + 1) (2 * j + 1)) = N.div (N.add (N.sub (N.sub l h) v) x) two) ∧
      ∀ sp a, ¬ ((sp = .plane 0 ∨ sp = .plane 1 ∨ sp = .plane 2) ∧ rowOf a < s.ph ∧ colOf a < s.pw) →
        t.cell sp a = s.cell sp a

/-- Over exact arithmetic the synthesis bank inverts the analysis bank (41_wavelet R131, R132). -/
def Obligations.HaarBankInvertsExactly : Prop :=
  ∀ q : Quad Rat, haarSynthesis exactArith (haarAnalysis exactArith q) = q

/-- Over exact arithmetic the inverse conversion recovers R, G, B, for every admissible choice of coefficients
(40_colour_pad R111, R113). -/
def Obligations.ColourConversionInvertsExactly : Prop :=
  ∀ (K : Config.Coef Rat) (p : Triple Rat), Safety.CoefOk K → cscInvPixel exactArith K (cscFwdPixel exactArith K p) = p

/-! ## Blocker -/

/-- BLOCK runs in stage 3: block i of each channel is a copy of its LL tile; no other cell and no other register
changes (42_blocker R145, R146). -/
def Obligations.BlockCopiesEveryTile : Prop :=
  ∀ s : State, s.err = none → s.stage = .subbands →
    ∃ t, exec .block s = .next t ∧ Safety.sameRegisters s t ∧ t.stage = .blocked ∧ t.degraded = s.degraded ∧
      (∀ (ch : Ch) (i u v : Nat), i < s.nblocks → u < 4 → v < 4 →
        t.cell (.blk ch) (16 * i + 4 * u + v)
          = s.cell (.sub ch .ll) (rc (4 * (i / s.bcols) + u) (4 * (i % s.bcols) + v))) ∧
      ∀ sp a, ¬ (∃ ch, sp = .blk ch ∧ a < 16 * s.nblocks) → t.cell sp a = s.cell sp a

/-- REASM runs in stages 4, 5 and 6: each LL tile is a copy of its block; the remainder rows and columns, every other
cell and every other register stay (42_blocker R147, R148). -/
def Obligations.ReasmWritesEveryTileBack : Prop :=
  ∀ s : State, s.err = none → s.stage = .blocked ∨ s.stage = .mapped ∨ s.stage = .embedded →
    ∃ t, exec .reasm s = .next t ∧ Safety.sameRegisters s t ∧ t.stage = .reassembled ∧ t.degraded = s.degraded ∧
      (∀ (ch : Ch) (i u v : Nat), i < s.nblocks → u < 4 → v < 4 →
        t.cell (.sub ch .ll) (rc (4 * (i / s.bcols) + u) (4 * (i % s.bcols) + v))
          = s.cell (.blk ch) (16 * i + 4 * u + v)) ∧
      ∀ sp a, ¬ (∃ ch, sp = .sub ch .ll ∧ rowOf a < 4 * s.brows ∧ colOf a < 4 * s.bcols) →
        t.cell sp a = s.cell sp a

/-- BLOCK followed by REASM leaves every subband cell bit for bit as it was (42_blocker R147). -/
def Obligations.BlockThenReasmRestoresTheSubbands : Prop :=
  ∀ s : State, s.err = none → s.stage = .subbands →
    ∃ t u, exec .block s = .next t ∧ exec .reasm t = .next u ∧ u.stage = .reassembled ∧
      ∀ (ch : Ch) (b : Band) (a : Nat), u.cell (.sub ch b) a = s.cell (.sub ch b) a

/-! ## Permutation -/

/-- PERMGEN runs in stage 4: the identity in Normal mode, whatever the seed, and the reference SHUFFLE of NBLOCKS and
SEED in Strategy mode (the default SHUFFLE, log 15); no other cell and no other register changes (44_permutation R201,
R205). -/
def Obligations.PermgenBuildsThePermutation : Prop :=
  ∀ s : State, s.err = none → s.stage = .blocked →
    ∃ t, exec .permgen s = .next t ∧ Safety.sameRegisters s t ∧ t.stage = .mapped ∧ t.degraded = s.degraded ∧
      (s.mode.getLsbD 0 = false → ∀ i, i < s.nblocks → (t.cell .perm i).toNat = i) ∧
      (s.mode.getLsbD 0 = true → ∀ i, i < s.nblocks →
        some (t.cell .perm i).toNat = (refShuffle s.nblocks (s.seedHi ++ s.seedLo))[i]?) ∧
      ∀ sp a, ¬ (sp = .perm ∧ a < s.nblocks) → t.cell sp a = s.cell sp a

/-- The reference SHUFFLE gives a bijection of [0,n) for every n and seed: PERM-BIJ (44_permutation R204, R205). -/
def Obligations.ReferenceShuffleIsABijection : Prop := PermBij refShuffle

/-- When PERM is a bijection, the group of position p has ceil((NBLOCKS - p) / WM_LEN) blocks, and none when p is not
below NBLOCKS (44_permutation R203). -/
def Obligations.GroupSizesOfABijection : Prop :=
  ∀ (s : State) (p : Nat), Safety.PermOk s → s.wmLen ≠ 0#32 → p < s.wmLen.toNat →
    (s.group p).length = (s.nblocks - p + (s.wmLen.toNat - 1)) / s.wmLen.toNat

/-! ## Block codec -/

/-- BEMBED runs in stage 5 on an admissible payload length: every block of every channel takes the bit
WM[PERM[i] mod WM_LEN]; a block whose svd4 fails stays as it is and is counted in DEGRADED; no other cell and no
other register changes (43_block_codec R167, R170). -/
def Obligations.BembedEmbedsEveryBlock : Prop :=
  ∀ s : State, s.err = none → s.stage = .mapped → s.wmLen ≠ 0#32 → s.wmLen.toNat ≤ params.maxWm →
    s.wmLen.toNat ≤ s.nblocks →
    ∃ t, exec .bembed s = .next t ∧ Safety.sameRegisters s t ∧ t.stage = .embedded ∧
      (∀ (ch : Ch) (i : Nat) (u v : Fin 4), i < s.nblocks →
        let N := params.num
        let D := dct2 N cdct (fun k l => s.cell (.blk ch) (16 * i + 4 * k.val + l.val))
        let bit := (s.cell .wm ((s.cell .perm i).toNat % s.wmLen.toNat)).getLsbD 0
        (params.svd4 D = none →
          t.cell (.blk ch) (16 * i + 4 * u.val + v.val) = s.cell (.blk ch) (16 * i + 4 * u.val + v.val)) ∧
        ∀ r, params.svd4 D = some r →
          let s0 := qimEmbed N (r.s 0) s.strength1.toNat bit
          let s1 := if s.mode.getLsbD 1 then qimEmbed N (r.s 1) s.strength2.toNat bit else r.s 1
          let D' : Mat Word := fun k l =>
            dot4 N (fun j => N.mul (r.u k j) (if j = 0 then s0 else if j = 1 then s1 else r.s j)) (fun j => r.v l j)
          t.cell (.blk ch) (16 * i + 4 * u.val + v.val) = dct3 N cdct D' u v) ∧
      t.degraded.toNat = ((List.range s.nblocks).map fun i =>
        (params.svd4 (dct2 params.num cdct (s.block 0 i))).isNone.toNat +
        (params.svd4 (dct2 params.num cdct (s.block 1 i))).isNone.toNat +
        (params.svd4 (dct2 params.num cdct (s.block 2 i))).isNone.toNat).sum ∧
      ∀ sp a, ¬ (∃ ch, sp = .blk ch ∧ a < 16 * s.nblocks) → t.cell sp a = s.cell sp a

/-- BEXTRACT runs in stage 5 on an admissible payload length and at least one block: RAW[i] holds one bit per channel,
0 where svals4 fails, which DEGRADED counts; no other cell and no other register changes (43_block_codec R168, R169,
R171). -/
def Obligations.BextractReadsEveryBlock : Prop :=
  ∀ s : State, s.err = none → s.stage = .mapped → s.wmLen ≠ 0#32 → s.wmLen.toNat ≤ params.maxWm → s.nblocks ≠ 0 →
    ∃ t, exec .bextract s = .next t ∧ Safety.sameRegisters s t ∧ t.stage = .rawbits ∧
      (∀ i, i < s.nblocks → (t.cell .raw i).toNat < 8 ∧ ∀ ch : Ch,
        (t.cell .raw i).getLsbD ch.val = match params.svals4 (dct2 params.num cdct (s.block ch i)) with
          | none => false
          | some g =>
            let bit1 := qimDecode params.num (g 0) s.strength1.toNat
            let bit2 := qimDecode params.num (g 1) s.strength2.toNat
            if s.mode.getLsbD 1 then decide (2 ≤ 3 * bit1.toNat + bit2.toNat) else bit1) ∧
      t.degraded.toNat = ((List.range s.nblocks).map fun i =>
        (params.svals4 (dct2 params.num cdct (s.block 0 i))).isNone.toNat +
        (params.svals4 (dct2 params.num cdct (s.block 1 i))).isNone.toNat +
        (params.svals4 (dct2 params.num cdct (s.block 2 i))).isNone.toNat).sum ∧
      ∀ sp a, ¬ (sp = .raw ∧ a < s.nblocks) → t.cell sp a = s.cell sp a

/-- The transform pair. In any commutative ring (the rationals and the reals among them) the entries of dct2 and dct3
are the sums of 43_block_codec R160 and R161, and the inverse transform inverts the forward one for every orthogonal
matrix (R162). The real DCT-II matrix of R160 is orthogonal, and each word of cdct is within half a unit in its last
place of its entry; the words are those of R160. In any arithmetic the two transforms are the sequences of R160 and
R161. -/
def Obligations.DctInvertsExactlyWhenOrthogonal : Prop :=
  (∀ (α : Type) [CommRing α] (N : Arith α), (∀ a b, N.add a b = a + b) → (∀ a b, N.mul a b = a * b) →
    ∀ C B : Mat α,
      (∀ k l, dct2 N C B k l = ∑ u, ∑ v, C k u * B u v * C l v) ∧
      (∀ u v, dct3 N C B u v = ∑ k, ∑ l, C k u * B k l * C l v) ∧
      ((∀ i j, ∑ k, C k i * C k j = if i = j then 1 else 0) → dct3 N C (dct2 N C B) = B)) ∧
  (∀ C : Mat ℝ,
    (∀ k n, C k n = (if k = 0 then 1 / 2 else √(1 / 2)) * Real.cos ((2 * (n.val : ℝ) + 1) * k.val * Real.pi / 8)) →
    (∀ i j, ∑ k, C k i * C k j = if i = j then 1 else 0) ∧
      ∀ k n, |((F32.toRat (cdct k n) : Rat) : ℝ) - C k n|
        ≤ if |F32.toRat (cdct k n)| < 1 / 2 then 1 / 2 ^ 26 else 1 / 2 ^ 25) ∧
  ((List.finRange 4).map fun k => (List.finRange 4).map fun n => cdct k n)
    = [[0x3F000000#32, 0x3F000000#32, 0x3F000000#32, 0x3F000000#32],
       [0x3F273D75#32, 0x3E8A8BD4#32, 0xBE8A8BD4#32, 0xBF273D75#32],
       [0x3F000000#32, 0xBF000000#32, 0xBF000000#32, 0x3F000000#32],
       [0x3E8A8BD4#32, 0xBF273D75#32, 0x3F273D75#32, 0xBE8A8BD4#32]] ∧
  ∀ (N : Arith Word) (C B : Mat Word) (i j : Fin 4),
    let dot (x y : Fin 4 → Word) : Word :=
      N.add (N.add (N.add (N.mul (x 0) (y 0)) (N.mul (x 1) (y 1))) (N.mul (x 2) (y 2))) (N.mul (x 3) (y 3))
    dct2 N C B i j = dot (fun v => dot (C i) (fun u => B u v)) (C j) ∧
      dct3 N C B i j = dot (fun l => dot (fun k => C k i) (fun k => B k l)) (fun l => C l j)

/-- Over exact arithmetic a change of the embedded singular value by less than S/1020 keeps the decoded bit: the
noise margin of a quarter of the step (43_block_codec R172). -/
def Obligations.QuantiserToleratesAQuarterStep : Prop :=
  ∀ (sigma delta : Rat) (S : Nat) (bit : Bool), 1 ≤ S → |delta| < (S : Rat) / 1020 →
    qimDecode exactArith (qimEmbed exactArith sigma S bit + delta) S = bit

/-- Over exact arithmetic a change by exactly a quarter of the step flips an embedded 1, so the margin of
43_block_codec R172 cannot be widened. -/
def Obligations.QuantiserMarginCannotBeWidened : Prop :=
  ∀ (sigma : Rat) (S : Nat), 1 ≤ S →
    qimDecode exactArith (qimEmbed exactArith sigma S true - (S : Rat) / 1020) S = false ∧
      qimDecode exactArith (qimEmbed exactArith sigma S true + (S : Rat) / 1020) S = false

/-- Over exact arithmetic the embedded value lies in the cell of sigma and differs from it by at most 3/4 of a step
(43_block_codec R165; the rule says "less than", which fails for a sigma on a cell boundary with bit 1; log 23). -/
def Obligations.QuantiserStaysInTheCell : Prop :=
  ∀ (sigma : Rat) (S : Nat) (bit : Bool), 0 ≤ sigma → 1 ≤ S →
    |qimEmbed exactArith sigma S bit - sigma| ≤ 3 / 4 * (S : Rat) / 255 ∧
      ∃ n : Nat, (n : Rat) * S / 255 ≤ sigma ∧ sigma < ((n : Rat) + 1) * S / 255 ∧
        (n : Rat) * S / 255 < qimEmbed exactArith sigma S bit ∧
        qimEmbed exactArith sigma S bit < ((n : Rat) + 1) * S / 255

/-! ## Vote -/

/-- VOTE runs in stage 11: every position takes the majority of the three channels and all its blocks, ties to 1, and
1 when it has no block (the default VOTE_EMPTY, log 16); no other cell and no other register changes (45_vote R215 to
R217). -/
def Obligations.VoteDecidesEveryPosition : Prop :=
  ∀ s : State, s.err = none → s.stage = .rawbits →
    ∃ t, exec .vote s = .next t ∧ Safety.sameRegisters s t ∧ t.stage = .decoded ∧ t.degraded = s.degraded ∧
      (∀ p, p < s.wmLen.toNat →
        let G := (List.range s.nblocks).filter fun i => (s.cell .perm i).toNat % s.wmLen.toNat == p
        let sum := (G.map fun i => ((s.cell .raw i).getLsbD 0).toNat + ((s.cell .raw i).getLsbD 1).toNat +
          ((s.cell .raw i).getLsbD 2).toNat).sum
        t.cell .out p = if 3 * G.length ≤ 2 * sum then 1#32 else 0#32) ∧
      ∀ sp a, ¬ (sp = .out ∧ a < s.wmLen.toNat) → t.cell sp a = s.cell sp a

/-- Ties (45_vote R216): they need an even number of blocks and decode to 1. -/
def Obligations.TiesDecodeToOne : Prop :=
  ∀ (empty : Bool) (count sum : Nat), 0 < count → 2 * sum = 3 * count →
    count % 2 = 0 ∧ voteBit empty count sum = true ∧ voteBit empty count (sum - 1) = false

/-! ## The whole machine -/

/-- Which command writes which memory (10_state R35 to R41): HL, LH and HH only DWT; LL only DWT and REASM; BLK only
BLOCK and BEMBED; PERM only PERMGEN; RAW only BEXTRACT; OUT only VOTE; WM none; the planes only CSC_FWD, CSC_INV, PAD
and IDWT. -/
def Obligations.EachMemoryHasItsWriters : Prop :=
  ∀ (i : Instr) (s t : State) (sp : Space) (a : Nat), exec i s = .next t → t.cell sp a ≠ s.cell sp a →
    match sp with
    | .plane k => i = .pad ∨ (k ≠ 3 ∧ (i = .cscFwd ∨ i = .cscInv ∨ i = .idwt))
    | .sub _ b => i = .dwt ∨ (b = .ll ∧ i = .reasm)
    | .blk _ => i = .block ∨ i = .bembed
    | .wm => False
    | .out => i = .vote
    | .raw => i = .bextract
    | .perm => i = .permgen

/-- No command but RELEASE changes a configuration register, PSEL, PADDR, OVR, ACC, BUSY or PEND (46_control R236,
R232). -/
def Obligations.CommandsKeepTheRegisters : Prop :=
  ∀ (i : Instr) (s t : State), i ≠ .release → exec i s = .next t →
    t = { s with mem := t.mem, stage := t.stage, degraded := t.degraded, err := t.err }

/-- What a command that does not fail writes: the cells, and the value of each as a function of the state before. -/
def Sys2Proof.commandWrites (s : State) : Instr → List (Space × Nat) × (Space → Nat → Word)
  | .cscFwd => (rect colourPlanes s.rows s.cols,
      fun sp a => (cscFwdPixel params.num params.coef (s.pixel a)).ofPlane sp)
  | .pad => (s.padRow ++ s.padCol, fun _ _ => 0x00000000#32)
  | .dwt => (rect subPlanes s.llr s.llc, dwtCell params s)
  | .block => (linear blkSpaces (16 * s.nblocks), blockCell s)
  | .permgen => (linear [.perm] s.nblocks, fun _ i => BitVec.ofNat 32 (permEntry params s i))
  | .bembed => (linear blkSpaces (16 * s.nblocks), bembedCell params s)
  | .reasm => (rect llPlanes (4 * s.brows) (4 * s.bcols), reasmCell s)
  | .idwt => (rect channelPlanes s.ph s.pw, idwtCell params s)
  | .cscInv => (rect colourPlanes s.rows s.cols,
      fun sp a => (cscInvPixel params.num params.coef (s.pixel a)).ofPlane sp)
  | .bextract => (linear [.raw] s.nblocks, fun _ i => rawTriple params s i)
  | .vote => (linear [.out] s.wmLenN, fun _ p => voteCell params s p)
  | .nop => ([], fun _ _ => 0#32)
  | .unpad => ([], fun _ _ => 0#32)
  | .release => ([], fun _ _ => 0#32)

/-- The order in which a command writes its cells is not observable, whatever the lanes do (20_memory R78): writing the
same cells in another order gives the same state, and the memory after every command that runs is that of its writes
in whatever order. -/
def Obligations.OrderOfWritesIsNotObservable : Prop :=
  (∀ (s : State) (cells cells' : List (Space × Nat)) (f : Space → Nat → Word), Mem.wf s.mem →
    cells.Perm cells' → s.fill cells f = s.fill cells' f) ∧
  ∀ (i : Instr) (s t : State) (cells : List (Space × Nat)), Mem.wf s.mem → s.err = none → exec i s = .next t →
    t.err = none → (commandWrites s i).1.Perm cells → t.mem = (s.fill cells (commandWrites s i).2).mem

/-- The invariant of the machine holds at reset. -/
def Obligations.ResetMeetsTheInvariant : Prop := Safety.Inv params State.reset

/-- Every step keeps the invariant: the memory's canonical form, nothing outside the storage, the accepted
configuration outside stage 0, PERM a bijection after PERMGEN (log 19), the accepted payload length, DEGRADED bounded
(10_state R33, R35 to R41, 44_permutation R200, 46_control R236). -/
def Obligations.EveryStepKeepsTheInvariant : Prop :=
  ∀ s t : State, Safety.Inv params s → step s = .next t → Safety.Inv params t

/-- The pseudo-command EMBED from an idle stage 0 without an error (30_encoding R97), any parameters: it ends in
stage 10 when the configuration, the dimensions, the payload length and the capacity are admissible; otherwise with an
error recorded, in the stage of the command that failed. The number of
steps is the model's choice: a wait lets the unit move (log 21), and the last command completes on the used-up script
(log 4). -/
def Obligations.EmbedProgramRunsToItsEnd : Prop :=
  ∀ (P : Config.Params) (s : State), s.busy = false → s.err = none → s.stage = .rgba →
    s.host = Line.turns .embed →
    ∃ t, runWith P 39 s = .next t ∧ t.busy = false ∧ t.host = [] ∧ t.acc = s.acc ∧ t.ovr = s.ovr ∧
      t.height = s.height ∧ t.width = s.width ∧
      if s.configOk && s.dimsOk P then
        (if s.wmLenOk P && decide (s.wmLen.toNat ≤ s.nblocks) then t.stage = .rgbaOut ∧ t.err = none
         else t.stage = .mapped ∧ t.err ≠ none)
      else t.stage = .rgba ∧ t.err ≠ none

/-- The pseudo-command EXTRACT from an idle stage 0 without an error (30_encoding R98), any parameters: it ends in
stage 12 when the configuration, the dimensions and the payload length are admissible and there is a block; otherwise
with an error recorded, in the stage of the command that failed. The number of
steps is the model's choice: a wait lets the unit move (log 21), and the last command completes on the used-up script
(log 4). -/
def Obligations.ExtractProgramRunsToItsEnd : Prop :=
  ∀ (P : Config.Params) (s : State), s.busy = false → s.err = none → s.stage = .rgba →
    s.host = Line.turns .extract →
    ∃ t, runWith P 27 s = .next t ∧ t.busy = false ∧ t.host = [] ∧ t.acc = s.acc ∧ t.ovr = s.ovr ∧
      t.height = s.height ∧ t.width = s.width ∧
      if s.configOk && s.dimsOk P then
        (if s.wmLenOk P && decide (0 < s.nblocks) then t.stage = .decoded ∧ t.err = none
         else t.stage = .mapped ∧ t.err ≠ none)
      else t.stage = .rgba ∧ t.err ≠ none

/-! ## binary32 -/

/-- The word is the rounding of the exact value x: x is a sign and a fraction in units of 2^-149. -/
def Sys2Proof.roundsTo (w : Word) (x : Rat) : Prop :=
  ∃ (neg : Bool) (num den : Nat), 0 < den ∧ w = F32.round neg num den ∧
    x = (if neg then -1 else 1) * ((num : Rat) / den) / 2 ^ 149

/-- Rounding gives the nearest binary32 value, ties to an even fraction: x is ±(num/den) units of 2^-149; and on finite
words addition, subtraction, multiplication, division and floorf, and on naturals f32 and c32, give the exact result
rounded (00_scope R10, 92_eei_decisions D19). -/
def Obligations.RoundingIsNearestTiesToEven : Prop :=
  (∀ (neg : Bool) (num den : Nat), 0 < den → F32.finite (F32.round neg num den) = true →
    let x : Rat := (if neg then -1 else 1) * ((num : Rat) / den) / 2 ^ 149
    ∀ w : Word, F32.finite w = true →
      |F32.toRat (F32.round neg num den) - x| ≤ |F32.toRat w - x| ∧
      (F32.toRat w ≠ F32.toRat (F32.round neg num den) →
        |F32.toRat (F32.round neg num den) - x| = |F32.toRat w - x| →
        (F32.round neg num den).getLsbD 0 = false)) ∧
  (∀ a b : Word, F32.finite a = true → F32.finite b = true →
    roundsTo (params.num.add a b) (F32.toRat a + F32.toRat b) ∧
    roundsTo (params.num.sub a b) (F32.toRat a - F32.toRat b) ∧
    roundsTo (params.num.mul a b) (F32.toRat a * F32.toRat b) ∧
    (F32.toRat b ≠ 0 → roundsTo (params.num.div a b) (F32.toRat a / F32.toRat b)) ∧
    roundsTo (params.num.floor a) (Rat.floor (F32.toRat a) : Rat)) ∧
  ∀ n d : Nat, 0 < d → roundsTo (params.num.ofNat n) n ∧ roundsTo (params.num.const n d) ((n : Rat) / d)

/-- f32(n) is exact for every n below 2^24 (00_scope R10). -/
def Obligations.SmallNaturalsAreExact : Prop :=
  ∀ n : Nat, n < 2 ^ 24 → F32.finite (params.num.ofNat n) = true ∧ F32.toRat (params.num.ofNat n) = n

/-- fmodf is exact for a ≥ 0 and b > 0: a - b * floor(a / b) (00_scope R10). -/
def Obligations.RemainderIsExact : Prop :=
  ∀ a b : Word, F32.finite a = true → F32.finite b = true → 0 ≤ F32.toRat a → 0 < F32.toRat b →
    F32.finite (params.num.fmod a b) = true ∧
      F32.toRat (params.num.fmod a b)
        = F32.toRat a - F32.toRat b * (Rat.floor (F32.toRat a / F32.toRat b) : Rat)
end

