-- ==== Sys2Proof/Laws/State.lean ====
section
/-! SUPPORT. One lemma per field per update of the state: what an operation leaves alone, and what it sets. -/

namespace Sys2Proof.Machine

open Sys2Proof

variable (s : State)

/-! State.setCell -/

@[simp] theorem State.setCell_busy (sp : Space) (a : Nat) (v : Word) : (s.setCell sp a v).busy = s.busy := rfl
@[simp] theorem State.setCell_ovr (sp : Space) (a : Nat) (v : Word) : (s.setCell sp a v).ovr = s.ovr := rfl
@[simp] theorem State.setCell_acc (sp : Space) (a : Nat) (v : Word) : (s.setCell sp a v).acc = s.acc := rfl
@[simp] theorem State.setCell_err (sp : Space) (a : Nat) (v : Word) : (s.setCell sp a v).err = s.err := rfl
@[simp] theorem State.setCell_stage (sp : Space) (a : Nat) (v : Word) : (s.setCell sp a v).stage = s.stage := rfl
@[simp] theorem State.setCell_height (sp : Space) (a : Nat) (v : Word) : (s.setCell sp a v).height = s.height := rfl
@[simp] theorem State.setCell_width (sp : Space) (a : Nat) (v : Word) : (s.setCell sp a v).width = s.width := rfl
@[simp] theorem State.setCell_strength1 (sp : Space) (a : Nat) (v : Word) : (s.setCell sp a v).strength1 = s.strength1 := rfl
@[simp] theorem State.setCell_strength2 (sp : Space) (a : Nat) (v : Word) : (s.setCell sp a v).strength2 = s.strength2 := rfl
@[simp] theorem State.setCell_mode (sp : Space) (a : Nat) (v : Word) : (s.setCell sp a v).mode = s.mode := rfl
@[simp] theorem State.setCell_seedLo (sp : Space) (a : Nat) (v : Word) : (s.setCell sp a v).seedLo = s.seedLo := rfl
@[simp] theorem State.setCell_seedHi (sp : Space) (a : Nat) (v : Word) : (s.setCell sp a v).seedHi = s.seedHi := rfl
@[simp] theorem State.setCell_wmLen (sp : Space) (a : Nat) (v : Word) : (s.setCell sp a v).wmLen = s.wmLen := rfl
@[simp] theorem State.setCell_degraded (sp : Space) (a : Nat) (v : Word) : (s.setCell sp a v).degraded = s.degraded := rfl
@[simp] theorem State.setCell_psel (sp : Space) (a : Nat) (v : Word) : (s.setCell sp a v).psel = s.psel := rfl
@[simp] theorem State.setCell_paddr (sp : Space) (a : Nat) (v : Word) : (s.setCell sp a v).paddr = s.paddr := rfl
@[simp] theorem State.setCell_pend (sp : Space) (a : Nat) (v : Word) : (s.setCell sp a v).pend = s.pend := rfl
@[simp] theorem State.setCell_mem (sp : Space) (a : Nat) (v : Word) : (s.setCell sp a v).mem = s.mem.write (sp.key a) (sp.fit v) := rfl
@[simp] theorem State.setCell_host (sp : Space) (a : Nat) (v : Word) : (s.setCell sp a v).host = s.host := rfl
@[simp] theorem State.setCell_rdata (sp : Space) (a : Nat) (v : Word) : (s.setCell sp a v).rdata = s.rdata := rfl
@[simp] theorem State.setCell_epoch (sp : Space) (a : Nat) (v : Word) : (s.setCell sp a v).epoch = s.epoch := rfl

/-! State.fill -/

@[simp] theorem State.fill_busy (cells : List (Space × Nat)) (f : Space → Nat → Word) : (s.fill cells f).busy = s.busy := rfl
@[simp] theorem State.fill_ovr (cells : List (Space × Nat)) (f : Space → Nat → Word) : (s.fill cells f).ovr = s.ovr := rfl
@[simp] theorem State.fill_acc (cells : List (Space × Nat)) (f : Space → Nat → Word) : (s.fill cells f).acc = s.acc := rfl
@[simp] theorem State.fill_err (cells : List (Space × Nat)) (f : Space → Nat → Word) : (s.fill cells f).err = s.err := rfl
@[simp] theorem State.fill_stage (cells : List (Space × Nat)) (f : Space → Nat → Word) : (s.fill cells f).stage = s.stage := rfl
@[simp] theorem State.fill_height (cells : List (Space × Nat)) (f : Space → Nat → Word) : (s.fill cells f).height = s.height := rfl
@[simp] theorem State.fill_width (cells : List (Space × Nat)) (f : Space → Nat → Word) : (s.fill cells f).width = s.width := rfl
@[simp] theorem State.fill_strength1 (cells : List (Space × Nat)) (f : Space → Nat → Word) : (s.fill cells f).strength1 = s.strength1 := rfl
@[simp] theorem State.fill_strength2 (cells : List (Space × Nat)) (f : Space → Nat → Word) : (s.fill cells f).strength2 = s.strength2 := rfl
@[simp] theorem State.fill_mode (cells : List (Space × Nat)) (f : Space → Nat → Word) : (s.fill cells f).mode = s.mode := rfl
@[simp] theorem State.fill_seedLo (cells : List (Space × Nat)) (f : Space → Nat → Word) : (s.fill cells f).seedLo = s.seedLo := rfl
@[simp] theorem State.fill_seedHi (cells : List (Space × Nat)) (f : Space → Nat → Word) : (s.fill cells f).seedHi = s.seedHi := rfl
@[simp] theorem State.fill_wmLen (cells : List (Space × Nat)) (f : Space → Nat → Word) : (s.fill cells f).wmLen = s.wmLen := rfl
@[simp] theorem State.fill_degraded (cells : List (Space × Nat)) (f : Space → Nat → Word) : (s.fill cells f).degraded = s.degraded := rfl
@[simp] theorem State.fill_psel (cells : List (Space × Nat)) (f : Space → Nat → Word) : (s.fill cells f).psel = s.psel := rfl
@[simp] theorem State.fill_paddr (cells : List (Space × Nat)) (f : Space → Nat → Word) : (s.fill cells f).paddr = s.paddr := rfl
@[simp] theorem State.fill_pend (cells : List (Space × Nat)) (f : Space → Nat → Word) : (s.fill cells f).pend = s.pend := rfl
@[simp] theorem State.fill_host (cells : List (Space × Nat)) (f : Space → Nat → Word) : (s.fill cells f).host = s.host := rfl
@[simp] theorem State.fill_rdata (cells : List (Space × Nat)) (f : Space → Nat → Word) : (s.fill cells f).rdata = s.rdata := rfl
@[simp] theorem State.fill_epoch (cells : List (Space × Nat)) (f : Space → Nat → Word) : (s.fill cells f).epoch = s.epoch := rfl

/-! State.toStage -/

@[simp] theorem State.toStage_busy (g : Stage) : (s.toStage g).busy = s.busy := rfl
@[simp] theorem State.toStage_ovr (g : Stage) : (s.toStage g).ovr = s.ovr := rfl
@[simp] theorem State.toStage_acc (g : Stage) : (s.toStage g).acc = s.acc := rfl
@[simp] theorem State.toStage_err (g : Stage) : (s.toStage g).err = s.err := rfl
@[simp] theorem State.toStage_stage (g : Stage) : (s.toStage g).stage = g := rfl
@[simp] theorem State.toStage_height (g : Stage) : (s.toStage g).height = s.height := rfl
@[simp] theorem State.toStage_width (g : Stage) : (s.toStage g).width = s.width := rfl
@[simp] theorem State.toStage_strength1 (g : Stage) : (s.toStage g).strength1 = s.strength1 := rfl
@[simp] theorem State.toStage_strength2 (g : Stage) : (s.toStage g).strength2 = s.strength2 := rfl
@[simp] theorem State.toStage_mode (g : Stage) : (s.toStage g).mode = s.mode := rfl
@[simp] theorem State.toStage_seedLo (g : Stage) : (s.toStage g).seedLo = s.seedLo := rfl
@[simp] theorem State.toStage_seedHi (g : Stage) : (s.toStage g).seedHi = s.seedHi := rfl
@[simp] theorem State.toStage_wmLen (g : Stage) : (s.toStage g).wmLen = s.wmLen := rfl
@[simp] theorem State.toStage_degraded (g : Stage) : (s.toStage g).degraded = s.degraded := rfl
@[simp] theorem State.toStage_psel (g : Stage) : (s.toStage g).psel = s.psel := rfl
@[simp] theorem State.toStage_paddr (g : Stage) : (s.toStage g).paddr = s.paddr := rfl
@[simp] theorem State.toStage_pend (g : Stage) : (s.toStage g).pend = s.pend := rfl
@[simp] theorem State.toStage_mem (g : Stage) : (s.toStage g).mem = s.mem := rfl
@[simp] theorem State.toStage_host (g : Stage) : (s.toStage g).host = s.host := rfl
@[simp] theorem State.toStage_rdata (g : Stage) : (s.toStage g).rdata = s.rdata := rfl
@[simp] theorem State.toStage_epoch (g : Stage) : (s.toStage g).epoch = s.epoch := rfl

/-! State.endRun -/

@[simp] theorem State.endRun_busy : (s.endRun).busy = s.busy := rfl
@[simp] theorem State.endRun_ovr : (s.endRun).ovr = false := rfl
@[simp] theorem State.endRun_acc : (s.endRun).acc = false := rfl
@[simp] theorem State.endRun_err : (s.endRun).err = none := rfl
@[simp] theorem State.endRun_stage : (s.endRun).stage = .rgba := rfl
@[simp] theorem State.endRun_height : (s.endRun).height = s.height := rfl
@[simp] theorem State.endRun_width : (s.endRun).width = s.width := rfl
@[simp] theorem State.endRun_strength1 : (s.endRun).strength1 = s.strength1 := rfl
@[simp] theorem State.endRun_strength2 : (s.endRun).strength2 = s.strength2 := rfl
@[simp] theorem State.endRun_mode : (s.endRun).mode = s.mode := rfl
@[simp] theorem State.endRun_seedLo : (s.endRun).seedLo = s.seedLo := rfl
@[simp] theorem State.endRun_seedHi : (s.endRun).seedHi = s.seedHi := rfl
@[simp] theorem State.endRun_wmLen : (s.endRun).wmLen = s.wmLen := rfl
@[simp] theorem State.endRun_degraded : (s.endRun).degraded = 0#32 := rfl
@[simp] theorem State.endRun_psel : (s.endRun).psel = s.psel := rfl
@[simp] theorem State.endRun_paddr : (s.endRun).paddr = s.paddr := rfl
@[simp] theorem State.endRun_pend : (s.endRun).pend = s.pend := rfl
@[simp] theorem State.endRun_mem : (s.endRun).mem = s.mem := rfl
@[simp] theorem State.endRun_host : (s.endRun).host = s.host := rfl
@[simp] theorem State.endRun_rdata : (s.endRun).rdata = s.rdata := rfl
@[simp] theorem State.endRun_epoch : (s.endRun).epoch = s.epoch := rfl

/-! State.refuse -/

@[simp] theorem State.refuse_busy : (s.refuse).busy = s.busy := rfl
@[simp] theorem State.refuse_ovr : (s.refuse).ovr = s.ovr := rfl
@[simp] theorem State.refuse_acc : (s.refuse).acc = true := rfl
@[simp] theorem State.refuse_err : (s.refuse).err = s.err := rfl
@[simp] theorem State.refuse_stage : (s.refuse).stage = s.stage := rfl
@[simp] theorem State.refuse_height : (s.refuse).height = s.height := rfl
@[simp] theorem State.refuse_width : (s.refuse).width = s.width := rfl
@[simp] theorem State.refuse_strength1 : (s.refuse).strength1 = s.strength1 := rfl
@[simp] theorem State.refuse_strength2 : (s.refuse).strength2 = s.strength2 := rfl
@[simp] theorem State.refuse_mode : (s.refuse).mode = s.mode := rfl
@[simp] theorem State.refuse_seedLo : (s.refuse).seedLo = s.seedLo := rfl
@[simp] theorem State.refuse_seedHi : (s.refuse).seedHi = s.seedHi := rfl
@[simp] theorem State.refuse_wmLen : (s.refuse).wmLen = s.wmLen := rfl
@[simp] theorem State.refuse_degraded : (s.refuse).degraded = s.degraded := rfl
@[simp] theorem State.refuse_psel : (s.refuse).psel = s.psel := rfl
@[simp] theorem State.refuse_paddr : (s.refuse).paddr = s.paddr := rfl
@[simp] theorem State.refuse_pend : (s.refuse).pend = s.pend := rfl
@[simp] theorem State.refuse_mem : (s.refuse).mem = s.mem := rfl
@[simp] theorem State.refuse_host : (s.refuse).host = s.host := rfl
@[simp] theorem State.refuse_rdata : (s.refuse).rdata = s.rdata := rfl
@[simp] theorem State.refuse_epoch : (s.refuse).epoch = s.epoch := rfl

/-! State.fail -/

@[simp] theorem State.fail_busy (e : ErrCode) : (s.fail e).busy = s.busy := by unfold State.fail; split <;> rfl
@[simp] theorem State.fail_ovr (e : ErrCode) : (s.fail e).ovr = s.ovr := by unfold State.fail; split <;> rfl
@[simp] theorem State.fail_acc (e : ErrCode) : (s.fail e).acc = s.acc := by unfold State.fail; split <;> rfl
@[simp] theorem State.fail_stage (e : ErrCode) : (s.fail e).stage = s.stage := by unfold State.fail; split <;> rfl
@[simp] theorem State.fail_height (e : ErrCode) : (s.fail e).height = s.height := by unfold State.fail; split <;> rfl
@[simp] theorem State.fail_width (e : ErrCode) : (s.fail e).width = s.width := by unfold State.fail; split <;> rfl
@[simp] theorem State.fail_strength1 (e : ErrCode) : (s.fail e).strength1 = s.strength1 := by unfold State.fail; split <;> rfl
@[simp] theorem State.fail_strength2 (e : ErrCode) : (s.fail e).strength2 = s.strength2 := by unfold State.fail; split <;> rfl
@[simp] theorem State.fail_mode (e : ErrCode) : (s.fail e).mode = s.mode := by unfold State.fail; split <;> rfl
@[simp] theorem State.fail_seedLo (e : ErrCode) : (s.fail e).seedLo = s.seedLo := by unfold State.fail; split <;> rfl
@[simp] theorem State.fail_seedHi (e : ErrCode) : (s.fail e).seedHi = s.seedHi := by unfold State.fail; split <;> rfl
@[simp] theorem State.fail_wmLen (e : ErrCode) : (s.fail e).wmLen = s.wmLen := by unfold State.fail; split <;> rfl
@[simp] theorem State.fail_degraded (e : ErrCode) : (s.fail e).degraded = s.degraded := by unfold State.fail; split <;> rfl
@[simp] theorem State.fail_psel (e : ErrCode) : (s.fail e).psel = s.psel := by unfold State.fail; split <;> rfl
@[simp] theorem State.fail_paddr (e : ErrCode) : (s.fail e).paddr = s.paddr := by unfold State.fail; split <;> rfl
@[simp] theorem State.fail_pend (e : ErrCode) : (s.fail e).pend = s.pend := by unfold State.fail; split <;> rfl
@[simp] theorem State.fail_mem (e : ErrCode) : (s.fail e).mem = s.mem := by unfold State.fail; split <;> rfl
@[simp] theorem State.fail_host (e : ErrCode) : (s.fail e).host = s.host := by unfold State.fail; split <;> rfl
@[simp] theorem State.fail_rdata (e : ErrCode) : (s.fail e).rdata = s.rdata := by unfold State.fail; split <;> rfl
@[simp] theorem State.fail_epoch (e : ErrCode) : (s.fail e).epoch = s.epoch := by unfold State.fail; split <;> rfl

/-! State.doReset -/

@[simp] theorem State.doReset_busy : (s.doReset).busy = false := rfl
@[simp] theorem State.doReset_ovr : (s.doReset).ovr = false := rfl
@[simp] theorem State.doReset_acc : (s.doReset).acc = false := rfl
@[simp] theorem State.doReset_err : (s.doReset).err = none := rfl
@[simp] theorem State.doReset_stage : (s.doReset).stage = .rgba := rfl
@[simp] theorem State.doReset_height : (s.doReset).height = 0#16 := rfl
@[simp] theorem State.doReset_width : (s.doReset).width = 0#16 := rfl
@[simp] theorem State.doReset_strength1 : (s.doReset).strength1 = 36#16 := rfl
@[simp] theorem State.doReset_strength2 : (s.doReset).strength2 = 0#16 := rfl
@[simp] theorem State.doReset_mode : (s.doReset).mode = 0#2 := rfl
@[simp] theorem State.doReset_seedLo : (s.doReset).seedLo = 0#32 := rfl
@[simp] theorem State.doReset_seedHi : (s.doReset).seedHi = 0#32 := rfl
@[simp] theorem State.doReset_wmLen : (s.doReset).wmLen = 0#32 := rfl
@[simp] theorem State.doReset_degraded : (s.doReset).degraded = 0#32 := rfl
@[simp] theorem State.doReset_psel : (s.doReset).psel = 0#5 := rfl
@[simp] theorem State.doReset_paddr : (s.doReset).paddr = 0#32 := rfl
@[simp] theorem State.doReset_pend : (s.doReset).pend = 0#32 := rfl
@[simp] theorem State.doReset_mem : (s.doReset).mem = [] := rfl
@[simp] theorem State.doReset_host : (s.doReset).host = s.host := rfl
@[simp] theorem State.doReset_rdata : (s.doReset).rdata = s.rdata := rfl
@[simp] theorem State.doReset_epoch : (s.doReset).epoch = s.epoch + 1 := rfl

/-! State.withPending -/

@[simp] theorem State.withPending_busy (w : Word) : (s.withPending w).busy = true := rfl
@[simp] theorem State.withPending_ovr (w : Word) : (s.withPending w).ovr = s.ovr := rfl
@[simp] theorem State.withPending_acc (w : Word) : (s.withPending w).acc = s.acc := rfl
@[simp] theorem State.withPending_err (w : Word) : (s.withPending w).err = s.err := rfl
@[simp] theorem State.withPending_stage (w : Word) : (s.withPending w).stage = s.stage := rfl
@[simp] theorem State.withPending_height (w : Word) : (s.withPending w).height = s.height := rfl
@[simp] theorem State.withPending_width (w : Word) : (s.withPending w).width = s.width := rfl
@[simp] theorem State.withPending_strength1 (w : Word) : (s.withPending w).strength1 = s.strength1 := rfl
@[simp] theorem State.withPending_strength2 (w : Word) : (s.withPending w).strength2 = s.strength2 := rfl
@[simp] theorem State.withPending_mode (w : Word) : (s.withPending w).mode = s.mode := rfl
@[simp] theorem State.withPending_seedLo (w : Word) : (s.withPending w).seedLo = s.seedLo := rfl
@[simp] theorem State.withPending_seedHi (w : Word) : (s.withPending w).seedHi = s.seedHi := rfl
@[simp] theorem State.withPending_wmLen (w : Word) : (s.withPending w).wmLen = s.wmLen := rfl
@[simp] theorem State.withPending_degraded (w : Word) : (s.withPending w).degraded = s.degraded := rfl
@[simp] theorem State.withPending_psel (w : Word) : (s.withPending w).psel = s.psel := rfl
@[simp] theorem State.withPending_paddr (w : Word) : (s.withPending w).paddr = s.paddr := rfl
@[simp] theorem State.withPending_pend (w : Word) : (s.withPending w).pend = w := rfl
@[simp] theorem State.withPending_mem (w : Word) : (s.withPending w).mem = s.mem := rfl
@[simp] theorem State.withPending_host (w : Word) : (s.withPending w).host = unitFirst s.host := rfl
@[simp] theorem State.withPending_rdata (w : Word) : (s.withPending w).rdata = s.rdata := rfl
@[simp] theorem State.withPending_epoch (w : Word) : (s.withPending w).epoch = s.epoch := rfl

/-! State.poll -/

@[simp] theorem State.poll_busy : (s.poll).busy = s.busy := by unfold State.poll; split <;> rfl
@[simp] theorem State.poll_ovr : (s.poll).ovr = s.ovr := by unfold State.poll; split <;> rfl
@[simp] theorem State.poll_acc : (s.poll).acc = s.acc := by unfold State.poll; split <;> rfl
@[simp] theorem State.poll_err : (s.poll).err = s.err := by unfold State.poll; split <;> rfl
@[simp] theorem State.poll_stage : (s.poll).stage = s.stage := by unfold State.poll; split <;> rfl
@[simp] theorem State.poll_height : (s.poll).height = s.height := by unfold State.poll; split <;> rfl
@[simp] theorem State.poll_width : (s.poll).width = s.width := by unfold State.poll; split <;> rfl
@[simp] theorem State.poll_strength1 : (s.poll).strength1 = s.strength1 := by unfold State.poll; split <;> rfl
@[simp] theorem State.poll_strength2 : (s.poll).strength2 = s.strength2 := by unfold State.poll; split <;> rfl
@[simp] theorem State.poll_mode : (s.poll).mode = s.mode := by unfold State.poll; split <;> rfl
@[simp] theorem State.poll_seedLo : (s.poll).seedLo = s.seedLo := by unfold State.poll; split <;> rfl
@[simp] theorem State.poll_seedHi : (s.poll).seedHi = s.seedHi := by unfold State.poll; split <;> rfl
@[simp] theorem State.poll_wmLen : (s.poll).wmLen = s.wmLen := by unfold State.poll; split <;> rfl
@[simp] theorem State.poll_degraded : (s.poll).degraded = s.degraded := by unfold State.poll; split <;> rfl
@[simp] theorem State.poll_psel : (s.poll).psel = s.psel := by unfold State.poll; split <;> rfl
@[simp] theorem State.poll_paddr : (s.poll).paddr = s.paddr := by unfold State.poll; split <;> rfl
@[simp] theorem State.poll_pend : (s.poll).pend = s.pend := by unfold State.poll; split <;> rfl
@[simp] theorem State.poll_mem : (s.poll).mem = s.mem := by unfold State.poll; split <;> rfl
@[simp] theorem State.poll_epoch : (s.poll).epoch = s.epoch := by unfold State.poll; split <;> rfl
@[simp] theorem State.poll_rdata : (s.poll).rdata = s.statusWord := by unfold State.poll; split <;> rfl

end Sys2Proof.Machine
end

