-- ==== Sys2Proof/Laws/Memory.lean ====
section
/-! SUPPORT. The laws of the memory: addresses never collide, a read after a write, the canonical form, and what a
block of writes does. -/

namespace Sys2Proof.Machine

open Sys2Proof

/-! ## Addresses -/

@[simp] theorem Space.ofCode_code (sp : Space) : Space.ofCode sp.code = some sp := by
  cases sp with
  | plane k => fin_cases k <;> rfl
  | sub ch b => fin_cases ch <;> cases b <;> rfl
  | blk ch => fin_cases ch <;> rfl
  | wm => rfl
  | out => rfl
  | raw => rfl
  | perm => rfl

theorem Space.code_lt (sp : Space) : sp.code < 23 := by
  cases sp with
  | plane k => fin_cases k <;> decide
  | sub ch b => fin_cases ch <;> cases b <;> decide
  | blk ch => fin_cases ch <;> decide
  | wm => decide
  | out => decide
  | raw => decide
  | perm => decide

theorem Space.code_inj {sp sq : Space} (h : sp.code = sq.code) : sp = sq := by
  have := congrArg Space.ofCode h
  simpa using this

theorem Space.key_mod (sp : Space) (a : Nat) : sp.key a % 32 = sp.code := by
  have := sp.code_lt
  unfold Space.key
  omega

theorem Space.key_div (sp : Space) (a : Nat) : sp.key a / 32 = a := by
  have := sp.code_lt
  unfold Space.key
  omega

@[simp] theorem Space.key_inj {sp sq : Space} {a b : Nat} : sp.key a = sq.key b ↔ sp = sq ∧ a = b := by
  constructor
  · intro h
    exact ⟨Space.code_inj (by rw [← sp.key_mod a, h, sq.key_mod]), by rw [← sp.key_div a, h, sq.key_div]⟩
  · rintro ⟨rfl, rfl⟩
    rfl

/-- The index of a plane cell determines its row. -/
@[simp] theorem rowOf_rc {r c : Nat} (h : c < 65536) : rowOf (rc r c) = r := by
  unfold rowOf rc
  omega

/-- The index of a plane cell determines its column. -/
@[simp] theorem colOf_rc {r c : Nat} (h : c < 65536) : colOf (rc r c) = c := by
  unfold colOf rc
  omega

theorem rc_rowOf_colOf (a : Nat) : rc (rowOf a) (colOf a) = a := by
  unfold rc rowOf colOf
  omega

/-- A cell keeps what fits in it. -/
@[simp] theorem Space.fit_fit (sp : Space) (v : Word) : sp.fit (sp.fit v) = sp.fit v := by
  cases sp <;> simp [Space.fit, BitVec.and_assoc]

theorem Mem.entryOk_key (sp : Space) (a : Nat) (v : Word) : Mem.entryOk (sp.key a, sp.fit v) = true := by
  simp [Mem.entryOk, Space.key_mod]

/-! ## One write -/

/-- A read after a write: the value written at its address, the old value elsewhere. -/
theorem Mem.lookup_write (m : Mem) (a b : Nat) (w : Word) :
    (m.write a w).lookup b = if b = a then some w else m.lookup b := by
  induction m with
  | nil => simp [Mem.write, Mem.lookup]
  | cons e m ih =>
    obtain ⟨k, v⟩ := e
    simp only [Mem.write]
    split
    · simp [Mem.lookup]
    · split
      · subst_vars
        simp only [Mem.lookup]
        split <;> rfl
      · simp only [Mem.lookup, ih]
        split
        · split
          · omega
          · rfl
        · rfl

/-- The addresses after a write are the old ones and the one written. -/
theorem Mem.mem_write {m : Mem} {a : Nat} {w : Word} {e : Nat × Word} (h : e ∈ m.write a w) : e = (a, w) ∨ e ∈ m := by
  induction m with
  | nil => simpa [Mem.write] using h
  | cons f m ih =>
    obtain ⟨k, v⟩ := f
    simp only [Mem.write] at h
    split at h
    · simpa using h
    · split at h
      · rcases List.mem_cons.1 h with h | h
        · exact .inl h
        · exact .inr (List.mem_cons_of_mem _ h)
      · rcases List.mem_cons.1 h with h | h
        · exact .inr (h ▸ List.mem_cons_self)
        · exact (ih h).imp_right (List.mem_cons_of_mem _)

/-- A write keeps the addresses strictly rising. -/
theorem Mem.rising_write {m : Mem} (a : Nat) (w : Word) (h : m.Pairwise (fun e f => e.1 < f.1)) :
    (m.write a w).Pairwise (fun e f => e.1 < f.1) := by
  induction m with
  | nil => simp [Mem.write]
  | cons e m ih =>
    obtain ⟨k, v⟩ := e
    obtain ⟨hk, hm⟩ := List.pairwise_cons.1 h
    simp only [Mem.write]
    split
    · rename_i hlt
      refine List.pairwise_cons.2 ⟨fun f hf => ?_, h⟩
      rcases List.mem_cons.1 hf with rfl | hf
      · exact hlt
      · exact Nat.lt_trans hlt (hk f hf)
    · split
      · rename_i heq
        subst heq
        exact List.pairwise_cons.2 ⟨hk, hm⟩
      · refine List.pairwise_cons.2 ⟨fun f hf => ?_, ih hm⟩
        rcases Mem.mem_write hf with rfl | hf
        · show k < a
          omega
        · exact hk f hf

/-- A write of a value that fits its cell keeps the canonical form. -/
theorem Mem.wf_write {m : Mem} {a : Nat} {w : Word} (h : Mem.wf m) (hw : Mem.entryOk (a, w) = true) :
    Mem.wf (m.write a w) :=
  ⟨Mem.rising_write a w h.1, fun e he => (Mem.mem_write he).elim (fun h => h ▸ hw) (h.2 e)⟩

/-- The memory after reset is in canonical form. -/
theorem reset_mem_wf : Mem.wf State.reset.mem := ⟨List.Pairwise.nil, by simp [State.reset]⟩

/-! ## Cells -/

/-- What a cell reads as depends on the memory and the epoch alone. -/
theorem State.cell_congr {s t : State} (hm : t.mem = s.mem) (he : t.epoch = s.epoch) (sp : Space) (a : Nat) :
    t.cell sp a = s.cell sp a := by
  simp [State.cell, hm, he]

@[simp] theorem State.cell_toStage (s : State) (g : Stage) (sp : Space) (a : Nat) :
    (s.toStage g).cell sp a = s.cell sp a := rfl

@[simp] theorem State.cell_endRun (s : State) (sp : Space) (a : Nat) : s.endRun.cell sp a = s.cell sp a := rfl

@[simp] theorem State.cell_refuse (s : State) (sp : Space) (a : Nat) : s.refuse.cell sp a = s.cell sp a := rfl

@[simp] theorem State.cell_poll (s : State) (sp : Space) (a : Nat) : s.poll.cell sp a = s.cell sp a :=
  State.cell_congr (State.poll_mem s) (State.poll_epoch s) sp a

@[simp] theorem State.cell_fail (s : State) (e : ErrCode) (sp : Space) (a : Nat) :
    (s.fail e).cell sp a = s.cell sp a := State.cell_congr (by simp) (by simp) sp a

/-- Reading a cell after writing one: the written value, as wide as the cell, or the old one. -/
theorem State.cell_setCell (s : State) (sp sq : Space) (a b : Nat) (v : Word) :
    (s.setCell sp a v).cell sq b = if sq = sp ∧ b = a then sp.fit v else s.cell sq b := by
  simp only [State.cell, State.setCell_mem, State.setCell_epoch, Mem.lookup_write, Space.key_inj]
  by_cases h : sq = sp ∧ b = a <;> simp [h]

theorem State.setCell_wf {s : State} (sp : Space) (a : Nat) (v : Word) (h : Mem.wf s.mem) :
    Mem.wf (s.setCell sp a v).mem :=
  Mem.wf_write h (Mem.entryOk_key sp a v)

@[simp] theorem State.fill_nil (s : State) (f : Space → Nat → Word) : s.fill [] f = s := rfl

@[simp] theorem State.fill_cons (s : State) (c : Space × Nat) (cs : List (Space × Nat)) (f : Space → Nat → Word) :
    s.fill (c :: cs) f = (s.setCell c.1 c.2 (f c.1 c.2)).fill cs f := rfl

/-- Reading a cell after a block of writes: the value of a listed cell, the old value of any other. -/
theorem State.cell_fill (s : State) (cells : List (Space × Nat)) (f : Space → Nat → Word) (sp : Space) (a : Nat) :
    (s.fill cells f).cell sp a = if (sp, a) ∈ cells then sp.fit (f sp a) else s.cell sp a := by
  induction cells generalizing s with
  | nil => simp
  | cons c cs ih =>
    obtain ⟨sq, b⟩ := c
    rw [State.fill_cons, ih, State.cell_setCell]
    by_cases hin : (sp, a) ∈ cs
    · simp [hin]
    · by_cases heq : sp = sq ∧ a = b
      · obtain ⟨rfl, rfl⟩ := heq
        simp
      · have hne : (sp, a) ∉ (sq, b) :: cs := by
          simp only [List.mem_cons, Prod.mk.injEq, not_or]
          exact ⟨heq, hin⟩
        simp [hin, heq, hne]

/-- A block of writes keeps the canonical form. -/
theorem State.fill_wf {s : State} (cells : List (Space × Nat)) (f : Space → Nat → Word) (h : Mem.wf s.mem) :
    Mem.wf (s.fill cells f).mem := by
  induction cells generalizing s with
  | nil => exact h
  | cons c cs ih => exact ih (State.setCell_wf c.1 c.2 _ h)

/-- Every address after a block of writes is an old one or that of a listed cell. -/
theorem State.mem_fill {s : State} {cells : List (Space × Nat)} {f : Space → Nat → Word} {e : Nat × Word}
    (h : e ∈ (s.fill cells f).mem) : e ∈ s.mem ∨ ∃ c ∈ cells, e.1 = Space.key c.1 c.2 := by
  induction cells generalizing s with
  | nil => exact .inl h
  | cons c cs ih =>
    rw [State.fill_cons] at h
    rcases ih h with h | ⟨d, hd, he⟩
    · rcases Mem.mem_write h with rfl | h
      · exact .inr ⟨c, List.mem_cons_self, rfl⟩
      · exact .inl h
    · exact .inr ⟨d, List.mem_cons_of_mem _ hd, he⟩

/-! ## Lists of cells -/

theorem mem_rect {sps : List Space} {rows cols : Nat} {sp : Space} {a : Nat} :
    (sp, a) ∈ rect sps rows cols ↔ sp ∈ sps ∧ ∃ r c, r < rows ∧ c < cols ∧ a = rc r c := by
  simp only [rect, List.mem_flatMap, List.mem_map, List.mem_range, Prod.mk.injEq]
  constructor
  · rintro ⟨q, hq, r, hr, c, hc, rfl, rfl⟩
    exact ⟨hq, r, c, hr, hc, rfl⟩
  · rintro ⟨hq, r, c, hr, hc, rfl⟩
    exact ⟨sp, hq, r, hr, c, hc, rfl, rfl⟩

theorem mem_linear {sps : List Space} {n : Nat} {sp : Space} {a : Nat} :
    (sp, a) ∈ linear sps n ↔ sp ∈ sps ∧ a < n := by
  simp only [linear, List.mem_flatMap, List.mem_map, List.mem_range, Prod.mk.injEq]
  constructor
  · rintro ⟨q, hq, b, hb, rfl, rfl⟩
    exact ⟨hq, hb⟩
  · rintro ⟨hq, ha⟩
    exact ⟨sp, hq, a, ha, rfl, rfl⟩

end Sys2Proof.Machine
end

