-- ==== Sys2Proof/Laws/Ops.lean ====
section
/-! SUPPORT. One lemma for each shared operation that says once everything it can do. -/

namespace Sys2Proof.Machine

open Sys2Proof

/-! ## Errors and the frame of a command -/

/-- fail records the code when none is recorded, and does nothing else (60_exceptions R253). -/
theorem State.fail_of_none {s : State} (h : s.err = none) (e : ErrCode) : s.fail e = { s with err := some e } := by
  simp [State.fail, h]

/-- fail keeps a recorded code (60_exceptions R253). -/
theorem State.fail_of_some {s : State} (h : s.err ≠ none) (e : ErrCode) : s.fail e = s := by
  unfold State.fail
  split
  · contradiction
  · rfl

/-- A recorded error refuses the command (60_exceptions R254). -/
theorem State.runBody_refused {s : State} (h : s.err ≠ none) (legal : List Stage)
    (body : State → Except ErrCode State) : s.runBody legal body = .next s := by
  unfold State.runBody
  split
  · rfl
  · contradiction

/-- A command out of its stages fails with E_STAGE (46_control R233). -/
theorem State.runBody_illegal {s : State} (h : s.err = none) {legal : List Stage} (hs : s.stage ∉ legal)
    (body : State → Except ErrCode State) : s.runBody legal body = .next { s with err := some .stage } := by
  simp [State.runBody, h, hs, State.fail]

/-- A command whose body gives a state has that state. -/
theorem State.runBody_ok {s t : State} (h : s.err = none) {legal : List Stage} (hs : s.stage ∈ legal)
    {body : State → Except ErrCode State} (hb : body s = .ok t) : s.runBody legal body = .next t := by
  simp [State.runBody, h, hs, hb]

/-- A command whose body raises an error records it. -/
theorem State.runBody_error {s : State} {e : ErrCode} (h : s.err = none) {legal : List Stage} (hs : s.stage ∈ legal)
    {body : State → Except ErrCode State} (hb : body s = .error e) :
    s.runBody legal body = .next { s with err := some e } := by
  simp [State.runBody, h, hs, hb, State.fail]

/-- Everything a command in the frame can do (46_control R232). -/
theorem State.runBody_cases {s t : State} {legal : List Stage} {body : State → Except ErrCode State}
    (h : s.runBody legal body = .next t) :
    (s.err ≠ none ∧ t = s) ∨
    (s.err = none ∧ s.stage ∉ legal ∧ t = { s with err := some .stage }) ∨
    (s.err = none ∧ s.stage ∈ legal ∧ ∃ e, body s = .error e ∧ t = { s with err := some e }) ∨
    (s.err = none ∧ s.stage ∈ legal ∧ body s = .ok t) := by
  by_cases he : s.err = none
  · by_cases hs : s.stage ∈ legal
    · cases hb : body s with
      | error e =>
        rw [State.runBody_error he hs hb] at h
        cases h
        exact .inr (.inr (.inl ⟨he, hs, e, rfl, rfl⟩))
      | ok u =>
        rw [State.runBody_ok he hs hb] at h
        cases h
        exact .inr (.inr (.inr ⟨he, hs, rfl⟩))
    · rw [State.runBody_illegal he hs] at h
      cases h
      exact .inr (.inl ⟨he, hs, rfl⟩)
  · rw [State.runBody_refused he] at h
    cases h
    exact .inl ⟨he, rfl⟩

/-- The machine's meanings are those of its parameters. -/
theorem exec_eq_execWith : exec = execWith params := by
  funext i s
  cases i <;> rfl

/-- The machine's step is that of its parameters. -/
theorem step_eq_stepWith : step = stepWith params := by
  funext s
  simp only [step, stepWith, exec_eq_execWith]

/-! ## The host port -/

/-- Everything a host read can do: a performed one returns the register and changes nothing, a refused one returns 0
and sets ACC (20_memory R61, R62, R66). -/
theorem State.hostRead_cases (P : Config.Params) (s : State) (off : BitVec 8) (bits : Nat) :
    (∃ r, regAt off bits = some r ∧ s.readOk P r = true ∧ s.hostRead P off bits = (s.regValue r, s)) ∨
    ((∀ r, regAt off bits = some r → s.readOk P r = false) ∧ s.hostRead P off bits = (0#32, s.refuse)) := by
  unfold State.hostRead
  cases h : regAt off bits with
  | none => exact .inr ⟨by simp, rfl⟩
  | some r =>
    cases hr : s.readOk P r with
    | true => exact .inl ⟨r, rfl, hr, by simp [hr]⟩
    | false =>
      refine .inr ⟨?_, by simp [hr]⟩
      rintro q hq
      cases hq
      exact hr

/-- Everything a host write can do: a CMD write is accepted or dropped, a performed one writes its register, a
refused one sets ACC (20_memory R61, R63, R66, 46_control R230). -/
theorem State.hostWrite_cases (P : Config.Params) (s : State) (off : BitVec 8) (bits : Nat) (w : Word) :
    (regAt off bits = some .cmd ∧ s.hostWrite P off bits w = s.accept w) ∨
    (∃ r, r ≠ .cmd ∧ regAt off bits = some r ∧ s.writeOk P r = true ∧ s.hostWrite P off bits w = s.writeReg P w r) ∨
    ((∀ r, regAt off bits = some r → r ≠ .cmd ∧ s.writeOk P r = false) ∧ s.hostWrite P off bits w = s.refuse) := by
  unfold State.hostWrite
  cases h : regAt off bits with
  | none => exact .inr (.inr ⟨by simp, rfl⟩)
  | some r =>
    by_cases hc : r = .cmd
    · subst hc
      exact .inl ⟨rfl, rfl⟩
    · cases hr : s.writeOk P r with
      | true => exact .inr (.inl ⟨r, hc, rfl, hr, by cases r <;> simp_all⟩)
      | false =>
        refine .inr (.inr ⟨?_, by cases r <;> simp_all⟩)
        rintro q hq
        cases hq
        exact ⟨hc, hr⟩

/-- A register's offset reaches the register. -/
@[simp] theorem regAt_offset (r : Reg) : regAt r.offset 32 = some r := by cases r <;> rfl

/-- With no error recorded the inputs are open exactly in stage 0 (20_memory R61, R65). -/
theorem State.inputsOpen_of_noError (P : Config.Params) {s : State} (h : s.err = none) :
    s.inputsOpen P = (s.stage == .rgba) := by
  simp [State.inputsOpen, h]

/-- Outside stage 0 the inputs are locked (70_reset_and_hazards R285). -/
theorem State.inputsOpen_of_stage (P : Config.Params) {s : State} (h : s.stage ≠ .rgba) : s.inputsOpen P = false := by
  simp [State.inputsOpen, h]

/-- A recorded error locks the inputs where the parameter says so (60_exceptions R254; log 24). -/
theorem State.inputsOpen_of_locked {P : Config.Params} {s : State} (he : s.err ≠ none) (hl : P.errLocks = true) :
    s.inputsOpen P = false := by
  cases h : s.err <;> simp_all [State.inputsOpen]

/-- The write extent is exactly the cells the host may write (20_memory R65). -/
theorem State.writable_iff_mem_writeExtent (P : Config.Params) {s : State} {sp : Space} (h : s.space = some sp) :
    s.writable P = true ↔ (sp, s.index) ∈ s.writeExtent P sp := by
  have hr : ∀ k, (Space.plane k, s.index) ∈ rect [.plane k] s.rows s.cols ↔ inRect s.index s.rows s.cols = true := by
    intro k
    have hc : s.cols < 65536 := s.width.isLt
    simp only [mem_rect, inRect, List.mem_singleton, true_and, Bool.and_eq_true, decide_eq_true_eq]
    constructor
    · rintro ⟨r, c, hr, hc', e⟩
      rw [e, rowOf_rc (by omega), colOf_rc (by omega)]
      exact ⟨hr, hc'⟩
    · rintro ⟨hr, hc'⟩
      exact ⟨_, _, hr, hc', (rc_rowOf_colOf _).symm⟩
  cases sp <;> simp only [State.writable, h, State.writeExtent, Bool.and_eq_true, List.not_mem_nil,
    Bool.false_eq_true]
  · split <;> simp_all
  · split <;> simp_all [mem_linear]

/-! ## Turns -/

/-- A wait that finds BUSY = 0 reads STATUS and passes (30_encoding R95). -/
theorem State.poll_of_idle {s : State} (h : s.busy = false) : s.poll = { s with rdata := s.statusWord } := by
  simp [State.poll, h]

/-- A wait that finds BUSY = 1 reads STATUS, lets the unit move and waits again (30_encoding R95; log 21). -/
theorem State.poll_of_busy {s : State} (h : s.busy = true) :
    s.poll = { s with rdata := s.statusWord, host := .unit :: .wait :: s.host } := by
  simp [State.poll, h]

/-- Completion of a command (46_control R231). -/
theorem State.complete_ok {ex : Meaning} {s : State} {i : Instr} (h : decodeWord s.pend = .ok i) :
    s.complete ex = clearBusy (ex i s) := by
  simp [State.complete, h]

/-- Completion of an illegal word (46_control R232). -/
theorem State.complete_illegal {ex : Meaning} {s : State} {e : DecodeError} (h : decodeWord s.pend = .error e) :
    s.complete ex = .next { s.fail .opcode with busy := false } := by
  simp [State.complete, h, clearBusy]

/-- Everything one step can do: the unit's turn when the script is used up, else the turn at its head. -/
theorem stepWith_cases (P : Config.Params) (s : State) :
    (s.host = [] ∧ stepWith P s = s.unitTurn (execWith P)) ∨
    ∃ t rest, s.host = t :: rest ∧ stepWith P s = State.takeTurn P (execWith P) { s with host := rest } t := by
  unfold stepWith State.advance
  cases h : s.host with
  | nil => exact .inl ⟨rfl, rfl⟩
  | cons t rest => exact .inr ⟨t, rest, rfl, rfl⟩

end Sys2Proof.Machine
end

