-- ==== Sys2Proof/Laws/PerInstr.lean ====
section
/-! SUPPORT. A family of per-instruction lemmas: the shape of every command's word (30_encoding R90, R91). -/

namespace Sys2Proof.Laws.EncodingShape

open Sys2Proof

/-- The word of the command has ZERO = 0 and a defined OPC, its own, and the term is well-formed. -/
def Statement (i : Instr) : Prop :=
  i.wellFormed = true ∧ zeroField (encode i) = 0#24 ∧ opcField (encode i) = opcOf i ∧ commandWordOk (encode i) = true

theorem nop : Statement .nop := ⟨rfl, rfl, rfl, rfl⟩
theorem cscFwd : Statement .cscFwd := ⟨rfl, rfl, rfl, rfl⟩
theorem pad : Statement .pad := ⟨rfl, rfl, rfl, rfl⟩
theorem dwt : Statement .dwt := ⟨rfl, rfl, rfl, rfl⟩
theorem block : Statement .block := ⟨rfl, rfl, rfl, rfl⟩
theorem permgen : Statement .permgen := ⟨rfl, rfl, rfl, rfl⟩
theorem bembed : Statement .bembed := ⟨rfl, rfl, rfl, rfl⟩
theorem reasm : Statement .reasm := ⟨rfl, rfl, rfl, rfl⟩
theorem idwt : Statement .idwt := ⟨rfl, rfl, rfl, rfl⟩
theorem unpad : Statement .unpad := ⟨rfl, rfl, rfl, rfl⟩
theorem cscInv : Statement .cscInv := ⟨rfl, rfl, rfl, rfl⟩
theorem bextract : Statement .bextract := ⟨rfl, rfl, rfl, rfl⟩
theorem vote : Statement .vote := ⟨rfl, rfl, rfl, rfl⟩
theorem release : Statement .release := ⟨rfl, rfl, rfl, rfl⟩

end Sys2Proof.Laws.EncodingShape
end

