-- ==== Sys2Proof/Tests/Slice0.lean ====
section
/-! SUPPORT. The author's tests: what WellFormed refuses, every command's word, small one-step checks of each command
against the vectors of 95_test_vectors, and for every statement with hypotheses a state that meets them. -/

namespace Sys2Proof.Tests

open Sys2Proof Sys2Proof.Machine

/-! ## Helpers -/

/-- Small limits, and decompositions that always fail (V-BC7). -/
def smallParams : Config.Params :=
  { params with maxDim := 4096, maxWm := 1024, svd4 := fun _ => none, svals4 := fun _ => none }

/-- A memory that holds the listed cells. -/
def memOf (l : List (Space × Nat × Word)) : Mem := l.foldl (fun m c => m.write (c.1.key c.2.1) (c.1.fit c.2.2)) []

/-- The reset state with an image size, a stage and some cells. -/
def img (h w : BitVec 16) (g : Stage) (l : List (Space × Nat × Word)) : State :=
  { State.reset with height := h, width := w, stage := g, mem := memOf l }

/-- The outcome is a next state with the property. -/
def nextHas (o : Out) (f : State → Bool) : Bool :=
  match o with
  | .next t => f t
  | .fault _ => false
  | .refused _ => false

/-! ## WellFormed refuses what is ill-formed -/

/-- 30_encoding R93: 0x0D is not a command. -/
theorem test_refuse_opcode_0D : commandWordOk 0x0000000D#32 = false := by decide
/-- 30_encoding R93: 0x0E is not a command. -/
theorem test_refuse_opcode_0E : commandWordOk 0x0000000E#32 = false := by decide
/-- 30_encoding R93: 0x10 is not a command. -/
theorem test_refuse_opcode_10 : commandWordOk 0x00000010#32 = false := by decide
/-- 30_encoding R93: a bit set in ZERO. -/
theorem test_refuse_zero_field : commandWordOk 0x00000101#32 = false := by decide
/-- 30_encoding R93: the last opcode is reserved. -/
theorem test_opc_FF_undefined : opcDefined 0xFF#8 = false := by decide
/-- 00_scope R7: MAXDIM is at least 1 and at most 65535. -/
theorem test_refuse_maxDim : maxDimOk 0 = false ∧ maxDimOk 65536 = false ∧ maxDimOk 65535 = true := by decide
/-- 00_scope R7: MAXWM is at least 1 and below 2^32. -/
theorem test_refuse_maxWm : maxWmOk 0 = false ∧ maxWmOk 4294967296 = false ∧ maxWmOk 1 = true := by decide

/-! ## Decoding: every constructor's word, written out from the table of 30_encoding R91 -/

theorem test_decode_nop : decodeWord 0b00000000000000000000000000000000#32 = .ok .nop := by decide
theorem test_decode_cscFwd : decodeWord 0b00000000000000000000000000000001#32 = .ok .cscFwd := by decide
theorem test_decode_pad : decodeWord 0b00000000000000000000000000000010#32 = .ok .pad := by decide
theorem test_decode_dwt : decodeWord 0b00000000000000000000000000000011#32 = .ok .dwt := by decide
theorem test_decode_block : decodeWord 0b00000000000000000000000000000100#32 = .ok .block := by decide
theorem test_decode_permgen : decodeWord 0b00000000000000000000000000000101#32 = .ok .permgen := by decide
theorem test_decode_bembed : decodeWord 0b00000000000000000000000000000110#32 = .ok .bembed := by decide
theorem test_decode_reasm : decodeWord 0b00000000000000000000000000000111#32 = .ok .reasm := by decide
theorem test_decode_idwt : decodeWord 0b00000000000000000000000000001000#32 = .ok .idwt := by decide
theorem test_decode_unpad : decodeWord 0b00000000000000000000000000001001#32 = .ok .unpad := by decide
theorem test_decode_cscInv : decodeWord 0b00000000000000000000000000001010#32 = .ok .cscInv := by decide
theorem test_decode_bextract : decodeWord 0b00000000000000000000000000001011#32 = .ok .bextract := by decide
theorem test_decode_vote : decodeWord 0b00000000000000000000000000001100#32 = .ok .vote := by decide
theorem test_decode_release : decodeWord 0b00000000000000000000000000001111#32 = .ok .release := by decide
/-- The words of V-CT6 are illegal. -/
theorem test_decode_illegal :
    [0x0000000D#32, 0x0000000E#32, 0x00000010#32, 0x000000FF#32, 0x00000101#32, 0x80000000#32, 0xFFFFFFFF#32].all
      (fun w => (decodeWord w).toOption == none) = true := by decide
/-- The opcode-table reading of a row's word. -/
theorem test_decodeTableWord : decodeTableWord 32 0x0000000B = some .bextract ∧ decodeTableWord 32 0x100 = none := by
  decide

/-! ## The host port -/

/-- V-CT1: STRENGTH1 reads 36 after reset; CMD reads 0. -/
theorem test_reset_reads :
    (State.reset.hostRead params 0x14#8 32).1 = 0x00000024#32 ∧ State.reset.hostRead params 0x00#8 32 = (0#32, .reset) := by
  decide
/-- V-CT1: PDATA after reset is outside the extent: 0, and STATUS becomes 4. -/
theorem test_reset_pdata :
    (State.reset.hostRead params 0x4C#8 32).1 = 0#32 ∧
      (State.reset.hostRead params 0x4C#8 32).2.statusWord = 0x00000004#32 := by decide
/-- V-CT4: HEIGHT keeps 16 bits, MODE keeps 2. -/
theorem test_field_masks :
    ((State.reset.hostWrite params 0x0C#8 32 0x12340008#32).hostRead params 0x0C#8 32).1 = 0x00000008#32 ∧
      ((State.reset.hostWrite params 0x1C#8 32 0xFFFFFFFF#32).hostRead params 0x1C#8 32).1 = 0x00000003#32 := by decide
/-- V-GE9: 18 x 18 reads STATUS 8, NBLOCKS 4, PH 18. -/
theorem test_geometry_remainder :
    (img 18 18 .rgba []).statusWord = 0x00000008#32 ∧ (img 18 18 .rgba []).nblocks = 4 ∧ (img 18 18 .rgba []).ph = 18 := by
  decide
/-- V-GE11: the largest image. -/
theorem test_geometry_largest :
    (img 65535 65535 .rgba []).nblocks = 67108864 ∧ (img 65535 65535 .rgba []).ph = 65536 := by decide
/-- V-CT10: in stage 1 HEIGHT is locked, and the refusal shows in ACC beside REM. -/
theorem test_config_locked :
    ((img 3 3 .ycbcr []).hostWrite params 0x0C#8 32 5#32).height = 3#16 ∧
      ((img 3 3 .ycbcr []).hostWrite params 0x0C#8 32 5#32).statusWord = 0x0000000C#32 := by decide
/-- V-CT15: with MAXWM = 1024 a WM cell keeps one bit, and cell 1024 is refused. -/
theorem test_wm_cells :
    (({ State.reset with psel := 19#5 }).hostWrite smallParams 0x4C#8 32 0xFFFFFFFF#32).cell .wm 0 = 1#32 ∧
      (({ State.reset with psel := 19#5, paddr := 1024#32 }).hostWrite smallParams 0x4C#8 32 1#32).acc = true := by
  decide
/-- 60_exceptions R254 and 20_memory R61: in stage 0 with an error recorded a unit that locks its inputs refuses a write
of HEIGHT, and one that does not performs it (log 24). -/
theorem test_recorded_error_lock :
    let s : State := { State.reset with err := some .dim }
    s.hostWrite { smallParams with errLocks := true } 0x0C#8 32 8#32 = { s with acc := true } ∧
      s.hostWrite { smallParams with errLocks := false } 0x0C#8 32 8#32 = { s with height := 8#16 } := by decide
/-- V-CT8: a CMD write while a command is pending is dropped, STATUS reads 3. -/
theorem test_ovr :
    (({ State.reset with busy := true, pend := 3#32 }).hostWrite params 0x00#8 32 4#32).statusWord = 0x00000003#32 ∧
      (({ State.reset with busy := true, pend := 3#32 }).hostWrite params 0x00#8 32 4#32).pend = 3#32 := by decide
/-- V-CT16: a reset abandons the pending command and restores STRENGTH1. -/
theorem test_reset_turn :
    nextHas (step { img 8 8 .subbands [] with busy := true, pend := 4#32, strength1 := 7#16, host := [.reset] })
      (fun t => !t.busy && t.stage == .rgba && t.strength1 == 36#16 && t.height == 0#16) = true := by decide

/-! ## The commands, one step each -/

/-- R234: NOP from the first step after reset leaves everything but PEND. -/
theorem test_nop :
    nextHas (step (State.reset.withFetchWord 32 0x00000000)) (fun t => t == State.reset) = true := by decide
/-- V-CT7: an illegal word keeps the first error. -/
theorem test_illegal_keeps_first_error :
    nextHas (step { State.reset with busy := true, pend := 0x0000000D#32, err := some .stage })
      (fun t => t.statusWord == 0x00000020#32) = true := by decide
/-- V-CT2: CSC_FWD right after reset: STATUS = 0x40. -/
theorem test_cscFwd_dim :
    nextHas (step (State.reset.withFetchWord 32 0x00000001)) (fun t => t.statusWord == 0x00000040#32) = true := by decide
/-- V-CS8: one pixel forward. -/
theorem test_cscFwd_pixel :
    nextHas (execWith smallParams .cscFwd
        (img 1 1 .rgba [(.plane 0, 0, 0x3F4CCCCD#32), (.plane 1, 0, 0x3ECCCCCD#32), (.plane 2, 0, 0x3E4CCCCD#32)]))
      (fun t => t.cell (.plane 0) 0 == 0x3EF0F27C#32 && t.cell (.plane 1) 0 == 0xBE155429#32 &&
        t.cell (.plane 2) 0 == 0x3E563082#32 && t.stage == .ycbcr) = true := by decide +kernel
/-- V-CS8: the same pixel back. -/
theorem test_cscInv_pixel :
    nextHas (exec .cscInv
        (img 1 1 .ycbcr [(.plane 0, 0, 0x3EF0F27C#32), (.plane 1, 0, 0xBE155429#32), (.plane 2, 0, 0x3E563082#32)]))
      (fun t => t.cell (.plane 0) 0 == 0x3F4CCCCD#32 && t.cell (.plane 1) 0 == 0x3ECCCCCD#32 &&
        t.cell (.plane 2) 0 == 0x3E4CCCCC#32 && t.stage == .rgbaOut) = true := by decide +kernel
/-- V-CT13: from stage 10 CSC_INV is E_STAGE. -/
theorem test_cscInv_stage :
    nextHas (exec .cscInv (img 1 1 .rgbaOut [])) (fun t => t.err == some .stage && t.stage == .rgbaOut) = true := by decide
/-- V-PD1: a 3 x 3 image: seven cells of every plane, 28 in all, and no cell inside the image. -/
theorem test_pad_3x3 :
    nextHas (exec .pad (img 3 3 .ycbcr [(.plane 3, rc 2 2, 0x7FC00001#32)]))
      (fun t => t.cell (.plane 3) (rc 3 3) == 0#32 && t.cell (.plane 0) (rc 3 0) == 0#32 &&
        t.cell (.plane 2) (rc 0 3) == 0#32 && t.cell (.plane 3) (rc 2 2) == 0x7FC00001#32 && t.mem.length == 29) = true := by
  decide +kernel
/-- V-PD4: a 4 x 4 image: no cell is written. -/
theorem test_pad_even :
    nextHas (exec .pad (img 4 4 .ycbcr [])) (fun t => t.mem == [] && t.stage == .padded) = true := by decide
/-- V-PD5: UNPAD leads to stage 9, where cell [3,3] of a 3 x 3 image is refused. -/
theorem test_unpad :
    nextHas (exec .unpad (img 3 3 .padded [(.plane 3, rc 3 3, 0#32)]))
      (fun t => t.stage == .unpadded && !t.inExtent params (.plane 3) (rc 3 3) && t.mem.length == 1) = true := by decide
/-- V-HW5: one neighbourhood, with a rounding in HL. -/
theorem test_dwt_neighbourhood :
    nextHas (exec .dwt (img 2 2 .padded [(.plane 1, rc 0 0, 0x3DCCCCCD#32), (.plane 1, rc 0 1, 0x3E4CCCCD#32),
        (.plane 1, rc 1 0, 0x3E99999A#32), (.plane 1, rc 1 1, 0x3ECCCCCD#32)]))
      (fun t => t.cell (.sub 1 .ll) 0 == 0x3F000000#32 && t.cell (.sub 1 .hl) 0 == 0xBDCCCCCC#32 &&
        t.cell (.sub 1 .lh) 0 == 0xBE4CCCCD#32 && t.cell (.sub 1 .hh) 0 == 0#32 && t.stage == .subbands) = true := by
  decide +kernel
/-- V-HW5: and back, b one unit in the last place off. -/
theorem test_idwt_neighbourhood :
    nextHas (exec .idwt (img 2 2 .subbands [(.sub 1 .ll, 0, 0x3F000000#32), (.sub 1 .hl, 0, 0xBDCCCCCC#32),
        (.sub 1 .lh, 0, 0xBE4CCCCD#32), (.sub 1 .hh, 0, 0#32)]))
      (fun t => t.cell (.plane 1) (rc 0 0) == 0x3DCCCCCD#32 && t.cell (.plane 1) (rc 0 1) == 0x3E4CCCCE#32 &&
        t.cell (.plane 1) (rc 1 0) == 0x3E99999A#32 && t.cell (.plane 1) (rc 1 1) == 0x3ECCCCCD#32 &&
        t.stage == .reconstructed) = true := by decide +kernel
/-- V-BK1: BLK[1][3][2,1], index 57, is LL[1][6,5]. -/
theorem test_block_tile :
    nextHas (exec .block (img 16 16 .subbands [(.sub 1 .ll, rc 6 5, 0x3F81E1E2#32)]))
      (fun t => t.cell (.blk 1) 57 == 0x3F81E1E2#32 && t.stage == .blocked) = true := by decide +kernel
/-- V-BK1 the other way, from stage 5. -/
theorem test_reasm_tile :
    nextHas (exec .reasm (img 16 16 .mapped [(.blk 1, 57, 0x3F81E1E2#32)]))
      (fun t => t.cell (.sub 1 .ll) (rc 6 5) == 0x3F81E1E2#32 && t.stage == .reassembled) = true := by decide +kernel
/-- V-BK2 with R148: LL column 4 of a 15 x 9 image is in no block and stays. -/
theorem test_reasm_remainder :
    nextHas (exec .reasm (img 15 9 .embedded [(.sub 0 .ll, rc 7 4, 5#32), (.blk 0, 31, 6#32)]))
      (fun t => t.cell (.sub 0 .ll) (rc 7 4) == 5#32 && t.cell (.sub 0 .ll) (rc 7 3) == 6#32) = true := by decide +kernel
/-- V-PM9: Strategy mode, seed 1, four blocks. -/
theorem test_permgen_strategy :
    nextHas (exec .permgen { img 16 16 .blocked [] with mode := 1#2, seedLo := 1#32 })
      (fun t => (List.range 4).map t.permAt == [2, 0, 3, 1] && t.stage == .mapped) = true := by decide +kernel
/-- V-PM8: Normal mode, any seed. -/
theorem test_permgen_normal :
    nextHas (exec .permgen { img 16 16 .blocked [] with seedHi := 0xDEADBEEF#32 })
      (fun t => (List.range 4).map t.permAt == [0, 1, 2, 3]) = true := by decide +kernel
/-- V-BC7: where svd4 gives nothing the block stays, and DEGRADED counts the three channels. -/
theorem test_bembed_degraded :
    nextHas (execWith smallParams .bembed
        { img 8 8 .mapped [(.blk 2, 7, 0x3F800000#32), (.perm, 0, 0#32), (.wm, 0, 1#32)] with wmLen := 1#32 })
      (fun t => t.cell (.blk 2) 7 == 0x3F800000#32 && t.degraded == 3#32 && t.stage == .embedded && t.err == none) = true := by
  decide +kernel
/-- V-CT11 (d): a 3 x 3 image has no block: E_CAPACITY, STATUS = 0x58. -/
theorem test_bembed_capacity :
    nextHas (execWith smallParams .bembed { img 3 3 .mapped [] with wmLen := 1#32 })
      (fun t => t.statusWord == 0x00000058#32 && t.stage == .mapped) = true := by decide
/-- V-BC5: a largest singular value 0x4081E1E2 reads as bit 1, in all three channels. -/
theorem test_bextract_bits :
    nextHas (execWith { smallParams with svals4 := fun _ => some ![0x4081E1E2#32, 0#32, 0#32, 0#32] } .bextract
        { img 8 8 .mapped [] with wmLen := 1#32 })
      (fun t => t.cell .raw 0 == 7#32 && t.degraded == 0#32 && t.stage == .rawbits) = true := by decide +kernel
/-- V-CT12 (a): a 3 x 3 image: E_NOBLOCKS, STATUS = 0x78. -/
theorem test_bextract_noblocks :
    nextHas (execWith smallParams .bextract { img 3 3 .mapped [] with wmLen := 1#32 })
      (fun t => t.statusWord == 0x00000078#32 && t.stage == .mapped) = true := by decide
/-- V-VT14: an empty group decodes to VOTE_EMPTY = 1. -/
theorem test_vote_empty_group :
    nextHas (exec .vote { img 8 8 .rawbits [(.perm, 0, 0#32), (.raw, 0, 0#32)] with wmLen := 2#32 })
      (fun t => t.cell .out 0 == 0#32 && t.cell .out 1 == 1#32 && t.stage == .decoded) = true := by decide +kernel
/-- V-VT12: two groups of two blocks under the permutation [2,0,3,1]. -/
theorem test_vote_groups :
    nextHas (exec .vote { img 16 16 .rawbits [(.perm, 0, 2#32), (.perm, 1, 0#32), (.perm, 2, 3#32), (.perm, 3, 1#32),
        (.raw, 0, 7#32), (.raw, 1, 7#32), (.raw, 2, 0#32), (.raw, 3, 0#32)] with wmLen := 2#32 })
      (fun t => t.cell .out 0 == 1#32 && t.cell .out 1 == 0#32) = true := by decide +kernel
/-- V-CT5: RELEASE clears a recorded error and the flags. -/
theorem test_release :
    nextHas (step { img 8 8 .rgba [] with busy := true, pend := 0x0000000F#32, err := some .stage, ovr := true, acc := true })
      (fun t => t.statusWord == 0#32 && t.height == 8#16) = true := by decide

/-! ## Formulas against the vectors -/

/-- V-QE1, V-QE7, V-QE13. -/
theorem test_qimEmbed :
    qimEmbed num32 0x40800000#32 36 true = 0x4081E1E2#32 ∧ qimEmbed num32 0x3E109091#32 36 false = 0x3E34B4B5#32 ∧
      qimEmbed num32 0x400C8F53#32 36 false = 0x4009C9CA#32 := by decide +kernel
/-- V-QD2, V-QD3, V-QD7: the threshold is strict, the cell end belongs to the next cell. -/
theorem test_qimDecode :
    qimDecode num32 0x3D909091#32 36 = false ∧ qimDecode num32 0x3D9090C5#32 36 = true ∧
      qimDecode num32 0x3E109091#32 36 = false := by decide +kernel
/-- V-BC8. -/
theorem test_combine : combine false true = false ∧ combine true false = true := by decide
/-- V-DC2: one entry of the transform of the impulse. -/
theorem test_dct2_impulse :
    dct2 num32 cdct (fun i j => if i = 0 ∧ j = 0 then 0x3F800000#32 else 0#32) 1 1 = 0x3EDA827B#32 := by decide +kernel
/-- V-PM7q. -/
theorem test_shuffle :
    refShuffle 16 0xDEADBEEFCAFEF00D#64 = [8, 9, 1, 6, 15, 0, 10, 5, 14, 7, 3, 12, 4, 2, 13, 11] := by decide +kernel
/-- 40_colour_pad R113: the default coefficients as binary32 words (95_test_vectors, section 2.1). -/
theorem test_coefficients :
    bt709 num32 = ⟨0x3E59B3D0#32, 0x3F371759#32, 0x3D93DD98#32, 0x3FED844D#32, 0x3FC9930C#32⟩ := by decide +kernel
/-- 30_encoding R95: a command line met while BUSY is 1 waits: CMD is not written, no OVR, the unit moves next. -/
theorem test_command_line_waits :
    nextHas (step { State.reset with busy := true, host := Line.turns (.cmd .dwt) })
      (fun t => t.host == [.unit, .wait, .write 0x00#8 32 0x00000003#32] && t.rdata == 1#32 && !t.ovr && t.busy) = true := by
  decide
/-- 30_encoding R96: FILL takes the dimensions the unit has when the line is reached: 1 x 2, two PUTs. -/
theorem test_fill_extent :
    nextHas (step { img 1 2 .rgba [] with host := [.fill (.plane 0) 7#32] })
      (fun t => t.host == putTurns (.plane 0) (rc 0 0) 7#32 ++ putTurns (.plane 0) (rc 0 1) 7#32) = true := by decide
/-- 20_memory R65: outside stage 0 the write extent is empty. -/
theorem test_fill_locked :
    nextHas (step { img 1 2 .ycbcr [] with host := [.fill (.plane 0) 7#32] }) (fun t => t.host == []) = true := by decide

/-! ## Witnesses: for every statement with hypotheses, a state and operands that meet them all -/

theorem one_le_maxDim : 1 ≤ params.maxDim := by simp [params, Config.maxDim]

theorem one_le_maxWm : 1 ≤ params.maxWm := by simp [params, Config.maxWm]

/-- A 1 x 1 image in a stage: the smallest the unit accepts whatever MAXDIM is. -/
def tiny (g : Stage) : State := img 1 1 g []

theorem tiny_dims (g : Stage) : (tiny g).height.toNat ≤ params.maxDim ∧ (tiny g).width.toNat ≤ params.maxDim :=
  ⟨one_le_maxDim, one_le_maxDim⟩

/-- An 8 x 8 image in a stage, one block, with a payload length of 1 bit. -/
def small (g : Stage) : State := { img 8 8 g [] with wmLen := 1#32 }

theorem witness_DecodingIsExact :
    Instr.wellFormed .vote = true ∧ decodeWord 0x0000000F#32 = .ok .release := by decide

theorem witness_IllegalWordsFailWithOpcodeError :
    ¬ ((0x0000000D#32).toNat ≤ 0x0C ∨ (0x0000000D#32).toNat = 0x0F) ∧
      ¬ ((0x0000010F#32).toNat ≤ 0x0C ∨ (0x0000010F#32).toNat = 0x0F) ∧
      ({ State.reset with host := [.write 0x00#8 32 0x0000000D#32, .unit] }).busy = false := by decide

theorem witness_StepRunsThePendingCommand_empty_script :
    (State.reset.withFetchWord 32 0).busy = true ∧ decodeWord (State.reset.withFetchWord 32 0).pend = .ok .nop ∧
      (State.reset.withFetchWord 32 0).host = [] ∧
      exec .nop (State.reset.withFetchWord 32 0) = .next (State.reset.withFetchWord 32 0) :=
  ⟨rfl, by decide, rfl, rfl⟩

theorem witness_StepRunsThePendingCommand_unit_turn :
    let s : State := { State.reset with busy := true, pend := 0x0000000F#32, host := [.unit, .reset] }
    s.busy = true ∧ decodeWord s.pend = .ok .release ∧ s.host = .unit :: [.reset] ∧
      exec .release { s with host := [.reset] } = .next ({ s with host := [.reset] }).endRun :=
  ⟨rfl, by decide, rfl, rfl⟩

theorem witness_StepPerformsTheHostsTurn :
    ({ State.reset with host := [.write 0x0C#8 32 5#32] }).host = .write 0x0C#8 32 5#32 :: [] ∧
      ({ State.reset with host := [.read 0x04#8 32, .unit] }).host = .read 0x04#8 32 :: [.unit] ∧
      ({ State.reset with host := [.unit, .unit] }).host = .unit :: [.unit] ∧ State.reset.busy = false ∧
      State.reset.host = [] ∧ ({ State.reset with host := [.wait] }).host = .wait :: [] ∧
      ({ State.reset with busy := true, host := [.wait] }).busy = true ∧
      ({ State.reset with host := [.fill .wm 1#32, .wait] }).host = .fill .wm 1#32 :: [.wait] :=
  ⟨rfl, rfl, rfl, rfl, rfl, rfl, rfl, rfl⟩

theorem witness_StageMovesOnlyAtCompletionOrReset_reset :
    let s : State := { tiny .ycbcr with host := [.reset] }
    step s = .next ({ s with host := [] }).doReset ∧ ({ s with host := [] }).doReset.stage ≠ s.stage :=
  ⟨rfl, by decide⟩

theorem witness_StageMovesOnlyAtCompletionOrReset_completion :
    nextHas (step ((tiny .ycbcr).withFetchWord 32 0x02)) (fun t => t.stage != .ycbcr) = true := by decide

theorem witness_PendIsNotObservableWhileIdle :
    State.reset.busy = false ∧ step State.reset = .next State.reset ∧
      nextHas (step { State.reset with host := [.write 0x00#8 32 0#32] }) (fun t => t.busy) = true :=
  ⟨rfl, rfl, by decide⟩

theorem witness_CommandWriteIsAcceptedOrDropped :
    ({ State.reset with busy := true }).busy = true ∧ State.reset.busy = false := ⟨rfl, rfl⟩

theorem witness_BusyRefusesTheHost : ({ State.reset with busy := true }).busy = true := rfl

theorem witness_InputsAreLockedOutsideStageZero :
    (tiny .ycbcr).busy = false ∧ (tiny .ycbcr).stage ≠ .rgba ∧
      ¬ (32 = 32 ∧ (0x4C#8 = 0x00#8 ∨ 0x4C#8 = 0x44#8 ∨ 0x4C#8 = 0x48#8)) := by decide

/-- The refused writes of stage 0: a plane cell just outside the image, a WM cell at MAXWM or above, a block cell, the
first PSEL code without a space. -/
theorem witness_InputsAreLockedOutsideStageZero_refused_writes :
    (tiny .rgba).busy = false ∧ 0x40#8 ∈ [0x04#8, 0x08#8, 0x2C#8, 0x30#8, 0x34#8, 0x38#8, 0x3C#8, 0x40#8] ∧
      (let s : State := { tiny .rgba with psel := 0#5, paddr := 1#32 }
       s.psel.toNat = (Space.plane 0).code ∧
         ¬ (rowOf s.paddr.toNat < s.height.toNat ∧ colOf s.paddr.toNat < s.width.toNat)) ∧
      (let s : State := { tiny .rgba with psel := 19#5, paddr := 0xFFFFFFFF#32 }
       s.psel.toNat = Space.wm.code ∧ ¬ s.paddr.toNat < params.maxWm) ∧
      ({ tiny .rgba with psel := 16#5 }).psel.toNat = (Space.blk 0).code ∧ 23 ≤ ({ tiny .rgba with psel := 23#5 }).psel.toNat := by
  refine ⟨rfl, by decide, by decide, ⟨by decide, ?_⟩, by decide, by decide⟩
  have h : Config.maxWmPred.val < 4294967295 := Config.maxWmPred.isLt
  have h' : params.maxWm ≤ 4294967295 := h
  show ¬ 4294967295 < params.maxWm
  omega

/-- A locking unit in stage 0 with an error recorded (60_exceptions R254; log 24). -/
theorem witness_InputsAreLockedOutsideStageZero_recorded_error :
    let s : State := { tiny .rgba with err := some .dim }
    ({ params with errLocks := true }).errLocks = true ∧ s.err ≠ none ∧ s.busy = false ∧
      0x4C#8 ∈ [0x0C#8, 0x10#8, 0x14#8, 0x18#8, 0x1C#8, 0x20#8, 0x24#8, 0x28#8, 0x4C#8] := by decide

/-- One witness for each clause, at its boundary: a narrow access to CMD, the first misaligned offset, the first
reserved one. -/
theorem witness_ReservedAndMisalignedAccessesAreRefused :
    ((8 : Nat) ≠ 32) ∧ (0x01#8).toNat % 4 ≠ 0 ∧ 0x50 ≤ (0x50#8).toNat := by decide

theorem witness_ConfigRegistersKeepTheirFields :
    State.reset.busy = false ∧ State.reset.stage = .rgba ∧ State.reset.err = none ∧
      0x28#8 ∈ [0x0C#8, 0x10#8, 0x14#8, 0x18#8, 0x1C#8, 0x20#8, 0x24#8, 0x28#8] := by
  decide

theorem witness_DerivedRegistersReadTheirFormulas :
    (img 65535 65535 .rgba []).busy = false ∧ 0x04#8 ∈ [0x2C#8, 0x30#8, 0x34#8, 0x38#8, 0x3C#8, 0x04#8] := by decide

theorem witness_StatusFieldsReadAsLaidOut : ({ State.reset with degraded := 3#32 }).busy = false := rfl

/-- Inside the extent at its last cell, outside it at the next, in stage 3, of a subband and of alpha; and the first
PSEL code without a space. -/
theorem witness_PlaneCellReadsBackWhatTheHostPut_window :
    let s : State := { tiny .subbands with psel := 4#5 }
    s.busy = false ∧ s.psel.toNat = (Space.sub 0 .ll).code ∧ extentTable s s.paddr.toNat (.sub 0 .ll) ∧
      ¬ extentTable { s with paddr := 1#32 } 1 (.sub 0 .ll) ∧
      extentTable { s with psel := 3#5, paddr := 0x00010001#32 } 0x00010001 (.plane 3) ∧
      ¬ extentTable { s with psel := 0#5 } 0 (.plane 0) ∧ 23 ≤ ({ s with psel := 23#5 }).psel.toNat := by
  simp only [extentTable]; decide

theorem witness_PlaneCellReadsBackWhatTheHostPut :
    let s : State := { tiny .rgba with host := putTurns (.plane 3) (rc 0 0) 0x7FC00001#32 ++ getTurns (.plane 3) (rc 0 0) }
    s.busy = false ∧ s.stage = .rgba ∧ s.err = none ∧ 0 < s.height.toNat ∧ 0 < s.width.toNat ∧ s.height.toNat ≤ params.maxDim ∧
      s.width.toNat ≤ params.maxDim ∧
      s.host = putTurns (.plane 3) (rc 0 0) 0x7FC00001#32 ++ getTurns (.plane 3) (rc 0 0) :=
  ⟨rfl, rfl, rfl, by decide, by decide, one_le_maxDim, one_le_maxDim, rfl⟩

theorem witness_PayloadCellKeepsBitZero :
    let s : State := { State.reset with host := putTurns .wm 0 3#32 ++ getTurns .wm 0 }
    s.busy = false ∧ s.stage = .rgba ∧ s.err = none ∧ 0 < params.maxWm ∧
      s.host = putTurns .wm 0 3#32 ++ getTurns .wm 0 :=
  ⟨rfl, rfl, rfl, one_le_maxWm, rfl⟩

theorem witness_NopChangesNothing :
    let s : State := { State.reset with busy := true }
    s.busy = true ∧ s.pend = 0x00000000#32 ∧ s.host = [] ∧ ({ s with host := [.unit] }).host = .unit :: [] :=
  ⟨rfl, rfl, rfl, rfl⟩

theorem witness_CommandsFollowTheStageTable :
    State.reset.err = none ∧ State.reset.stage.code ∉ (stageTable .pad).1 ∧
      State.reset.stage.code ∈ (stageTable .cscFwd).1 ∧ (tiny .decoded).stage.code ∈ (stageTable .nop).1 := by decide

theorem witness_FailureChangesOnlyTheErrorCode :
    State.reset.err = none ∧ ({ State.reset with err := some .dim }).err ≠ none ∧
      (Instr.pad ≠ .release ∧ exec .pad State.reset = .next { State.reset with err := some .stage } ∧
        ({ State.reset with err := some .stage }).err ≠ State.reset.err) ∧
      ({ State.reset with busy := true }).host = [] ∧
      step { State.reset with busy := true } = .next State.reset ∧
      ({ State.reset with host := [.unit] }).host.head? = some .unit ∧
      step { State.reset with busy := true, host := [.unit] } = .next State.reset :=
  ⟨rfl, by decide, ⟨by decide, rfl, by decide⟩, rfl, rfl, rfl, rfl⟩

theorem witness_RecordedErrorRefusesCommands :
    ({ State.reset with err := some .dim }).err ≠ none ∧ Instr.vote ≠ .release := by decide

/-- A pending PAD at the unit's turn in stage 1, and in stage 0 a write of PSEL. -/
theorem witness_RecordedErrorRefusesCommands_steps :
    let s : State := { tiny .ycbcr with err := some .stage, busy := true, pend := 0x00000002#32, host := [.unit] }
    let u : State := { State.reset with err := some .dim, host := [.write 0x44#8 32 5#32] }
    (s.err ≠ none ∧ step s = .next { s with busy := false, host := [] } ∧ s.host.head? ≠ some .reset ∧
      (s.busy = true → s.pend ≠ 0x0000000F#32) ∧ s.stage ≠ .rgba) ∧
    u.err ≠ none ∧ step u = .next { u with psel := 5#5, host := [] } ∧ u.host.head? ≠ some .reset ∧ u.busy = false ∧
      ∀ (off : BitVec 8) (w : Word) (rest : List Turn), u.host = .write off 32 w :: rest →
        off ∉ [0x0C#8, 0x10#8, 0x14#8, 0x18#8, 0x1C#8, 0x20#8, 0x24#8, 0x28#8, 0x4C#8] := by
  refine ⟨⟨by decide, rfl, by decide, by decide, by decide⟩, by decide, rfl, by decide, rfl, ?_⟩
  intro off w rest h
  cases h
  decide

/-- Both strength clauses and the two zero dimensions; a dimension above MAXDIM exists only where MAXDIM is below
65535. -/
theorem witness_CscFwdChecksConfigThenDimensions :
    State.reset.err = none ∧ State.reset.stage = .rgba ∧ ({ State.reset with strength1 := 0#16 }).strength1 = 0#16 ∧
      (({ State.reset with mode := 2#2 }).mode.getLsbD 1 = true ∧ ({ State.reset with mode := 2#2 }).strength2 = 0#16) ∧
      ¬ (State.reset.strength1 = 0#16 ∨ (State.reset.mode.getLsbD 1 = true ∧ State.reset.strength2 = 0#16)) ∧
      (img 0 1 .rgba []).height = 0#16 ∧ (img 1 0 .rgba []).width = 0#16 := by decide

theorem witness_BembedChecksLengthThenCapacity :
    (tiny .mapped).err = none ∧ (tiny .mapped).stage = .mapped ∧ (tiny .mapped).wmLen = 0#32 ∧
      (let s : State := { tiny .mapped with wmLen := 1#32 }
       s.wmLen ≠ 0#32 ∧ s.wmLen.toNat ≤ params.maxWm ∧ s.nblocks < s.wmLen.toNat) :=
  ⟨rfl, rfl, rfl, by decide, one_le_maxWm, by decide⟩

theorem witness_BextractChecksLengthThenBlocks :
    (tiny .mapped).err = none ∧ (tiny .mapped).stage = .mapped ∧ (tiny .mapped).wmLen = 0#32 ∧
      (let s : State := { tiny .mapped with wmLen := 1#32 }
       s.wmLen ≠ 0#32 ∧ s.wmLen.toNat ≤ params.maxWm ∧ s.nblocks = 0) :=
  ⟨rfl, rfl, rfl, by decide, one_le_maxWm, by decide⟩

theorem witness_ResetLeavesTheSpecifiedValues :
    let s : State := { tiny .decoded with busy := true, host := [.reset, .unit] }
    s.host = .reset :: [.unit] ∧ step s = .next ({ s with host := [.unit] }).doReset := ⟨rfl, rfl⟩

theorem witness_CscFwdConvertsEveryPixel :
    let s := tiny .rgba
    s.err = none ∧ s.stage = .rgba ∧ s.strength1 ≠ 0#16 ∧ (s.mode.getLsbD 1 = true → s.strength2 ≠ 0#16) ∧
      s.height ≠ 0#16 ∧ s.width ≠ 0#16 ∧ s.height.toNat ≤ params.maxDim ∧ s.width.toNat ≤ params.maxDim ∧
      0 < s.height.toNat ∧ 0 < s.width.toNat ∧ ¬ (rowOf (rc 1 0) < s.height.toNat) :=
  ⟨rfl, rfl, by decide, by decide, by decide, by decide, one_le_maxDim, one_le_maxDim, by decide, by decide, by decide⟩

theorem witness_CscInvConvertsEveryPixelBack :
    ((tiny .ycbcr).err = none ∧ (tiny .ycbcr).stage = .ycbcr) ∧
      ((tiny .unpadded).err = none ∧ (tiny .unpadded).stage = .unpadded) ∧ 0 < (tiny .unpadded).height.toNat ∧
      0 < (tiny .unpadded).width.toNat := by decide

/-- A 1 x 1 image has a padding row and a padding column; cell [0,0] is outside both. -/
theorem witness_PadWritesThePaddingCells :
    let s := tiny .ycbcr
    s.err = none ∧ s.stage = .ycbcr ∧ s.height.toNat % 2 = 1 ∧ 1 < s.pw ∧ s.width.toNat % 2 = 1 ∧ 1 < s.ph ∧
      rowOf (rc 0 0) ≠ s.height.toNat ∧ colOf (rc 0 0) ≠ s.width.toNat := by decide

theorem witness_UnpadChangesOnlyTheStage :
    ((tiny .padded).err = none ∧ (tiny .padded).stage = .padded) ∧
      ((tiny .reconstructed).err = none ∧ (tiny .reconstructed).stage = .reconstructed) := by decide

theorem witness_PadThenUnpadRestoresThePlanes :
    (tiny .ycbcr).err = none ∧ (tiny .ycbcr).stage = .ycbcr ∧ 0 < (tiny .ycbcr).height.toNat ∧
      0 < (tiny .ycbcr).width.toNat := by decide

theorem witness_NoCommandWritesAlpha :
    nextHas (exec .pad (tiny .ycbcr)) (fun t => t.stage == .padded) = true ∧ 0 < (tiny .ycbcr).height.toNat ∧
      0 < (tiny .ycbcr).width.toNat := by decide

theorem witness_DwtFiltersEveryNeighbourhood :
    let s := tiny .padded
    s.err = none ∧ s.stage = .padded ∧ 0 < s.llr ∧ 0 < s.llc ∧ ¬ (rowOf (rc 1 0) < s.llr) := by decide

theorem witness_IdwtRebuildsEveryNeighbourhood :
    ((tiny .subbands).err = none ∧ (tiny .subbands).stage = .subbands) ∧
      ((tiny .reassembled).err = none ∧ (tiny .reassembled).stage = .reassembled) ∧ 0 < (tiny .subbands).llr ∧
      0 < (tiny .subbands).llc := by decide

/-- The BT.709 coefficients, exactly. -/
theorem witness_ColourConversionInvertsExactly : Safety.CoefOk (bt709 exactArith) := by
  norm_num [Safety.CoefOk, bt709, exactArith]

theorem witness_BlockCopiesEveryTile :
    (small .subbands).err = none ∧ (small .subbands).stage = .subbands ∧ 0 < (small .subbands).nblocks ∧
      ¬ (16 < 16 * (small .subbands).nblocks) := by decide

theorem witness_ReasmWritesEveryTileBack :
    ((small .blocked).err = none ∧ (small .blocked).stage = .blocked) ∧ (small .mapped).stage = .mapped ∧
      (small .embedded).stage = .embedded ∧ 0 < (small .blocked).nblocks ∧
      ¬ (rowOf (rc 4 0) < 4 * (small .blocked).brows) := by decide

theorem witness_BlockThenReasmRestoresTheSubbands :
    (small .subbands).err = none ∧ (small .subbands).stage = .subbands := by decide

theorem witness_PermgenBuildsThePermutation :
    let s := small .blocked
    s.err = none ∧ s.stage = .blocked ∧ s.mode.getLsbD 0 = false ∧ ({ s with mode := 1#2 }).mode.getLsbD 0 = true ∧
      0 < s.nblocks ∧ ¬ (1 < s.nblocks) := by decide

/-- V-PM13: one block, a payload of two bits; position 0 has a block and position 1 has none. -/
theorem witness_GroupSizesOfABijection :
    let s : State := { img 8 8 .mapped [(.perm, 0, 0#32)] with wmLen := 2#32 }
    Safety.PermOk s ∧ s.wmLen ≠ 0#32 ∧ 0 < s.wmLen.toNat ∧ 1 < s.wmLen.toNat ∧
      (s.group 0).length = 1 ∧ (s.group 1).length = 0 := by
  refine ⟨⟨fun i hi => ?_, fun i j hi hj _ => ?_⟩, by decide, by decide, by decide, by decide, by decide⟩
  · have : i = 0 := Nat.lt_one_iff.mp hi
    subst this; decide
  · exact (Nat.lt_one_iff.mp hi).trans (Nat.lt_one_iff.mp hj).symm

theorem witness_BembedEmbedsEveryBlock :
    let s := small .mapped
    s.err = none ∧ s.stage = .mapped ∧ s.wmLen ≠ 0#32 ∧ s.wmLen.toNat ≤ params.maxWm ∧ s.wmLen.toNat ≤ s.nblocks ∧
      0 < s.nblocks := ⟨rfl, rfl, by decide, one_le_maxWm, by decide, by decide⟩

theorem witness_BextractReadsEveryBlock :
    let s := small .mapped
    s.err = none ∧ s.stage = .mapped ∧ s.wmLen ≠ 0#32 ∧ s.wmLen.toNat ≤ params.maxWm ∧ s.nblocks ≠ 0 :=
  ⟨rfl, rfl, by decide, one_le_maxWm, by decide⟩

theorem witness_DctInvertsExactlyWhenOrthogonal :
    let C : Mat Rat := fun i j => if i = j then 1 else 0
    (∀ a b, exactArith.add a b = a + b) ∧ (∀ a b, exactArith.mul a b = a * b) ∧
      ∀ i j, ∑ k, C k i * C k j = if i = j then 1 else 0 := ⟨fun _ _ => rfl, fun _ _ => rfl, by decide +kernel⟩

theorem witness_DctInvertsExactlyWhenOrthogonal_reference :
    ∃ C : Mat ℝ, ∀ k n, C k n
      = (if k = 0 then 1 / 2 else √(1 / 2)) * Real.cos ((2 * (n.val : ℝ) + 1) * k.val * Real.pi / 8) :=
  ⟨_, fun _ _ => rfl⟩

/-- The largest step, and a deviation just below a quarter of the smallest. -/
theorem witness_QuantiserToleratesAQuarterStep :
    1 ≤ 65535 ∧ |(1 / 1021 : Rat)| < ((1 : Nat) : Rat) / 1020 := by norm_num [abs_of_pos]

theorem witness_QuantiserStaysInTheCell : (0 : Rat) ≤ 0 ∧ 1 ≤ 1 := by norm_num

theorem witness_QuantiserMarginCannotBeWidened : 1 ≤ 36 := by decide

theorem witness_VoteDecidesEveryPosition :
    (small .rawbits).err = none ∧ (small .rawbits).stage = .rawbits ∧ 0 < (small .rawbits).wmLen.toNat ∧
      ¬ (1 < (small .rawbits).wmLen.toNat) := by decide

theorem witness_TiesDecodeToOne : 0 < 2 ∧ 2 * 3 = 3 * 2 := by decide

/-- PAD changes cell [1,0] of a 1 x 1 image that held another word there. -/
theorem witness_EachMemoryHasItsWriters :
    nextHas (exec .pad (img 1 1 .ycbcr [(.plane 0, rc 1 0, 5#32)]))
      (fun t => t.cell (.plane 0) (rc 1 0) != (img 1 1 .ycbcr [(.plane 0, rc 1 0, 5#32)]).cell (.plane 0) (rc 1 0)) = true := by
  decide

theorem witness_CommandsKeepTheRegisters :
    Instr.nop ≠ .release ∧ exec .nop State.reset = .next State.reset := ⟨by decide, rfl⟩

theorem witness_OrderOfWritesIsNotObservable :
    Mem.wf (img 1 1 .rgba [(.wm, 0, 1#32)]).mem ∧
      List.Perm [(Space.wm, 0), (Space.perm, 0)] [(Space.perm, 0), (Space.wm, 0)] := ⟨by decide, .swap _ _ _⟩

/-- BLOCK of one block, its 48 cells in the opposite order. -/
theorem witness_OrderOfWritesIsNotObservable_command :
    Mem.wf (small .subbands).mem ∧ (small .subbands).err = none ∧
      nextHas (exec .block (small .subbands)) (fun t => t.err == none) = true ∧
      (commandWrites (small .subbands) .block).1.Perm (commandWrites (small .subbands) .block).1.reverse :=
  ⟨by decide, rfl, by decide, (List.reverse_perm _).symm⟩

theorem witness_EveryStepKeepsTheInvariant :
    let s : State := { State.reset with psel := 19#5, host := [.unit] }
    Safety.Inv params s ∧ step s = .next { s with host := [] } := by
  refine ⟨⟨by decide, ?_, ?_, ?_, ?_, ?_, ?_, by decide, fun _ => rfl⟩, rfl⟩
  · intro e he; simp [State.reset] at he
  all_goals intro h; simp [State.reset, Safety.afterPermgen] at h

/-- An image and a payload that embed, one dimension refused, and a payload that does not fit. -/
theorem witness_EmbedProgramRunsToItsEnd :
    let s : State := { small .rgba with host := Line.turns .embed }
    s.busy = false ∧ s.err = none ∧ s.stage = .rgba ∧ s.host = Line.turns .embed ∧
      (s.configOk && s.dimsOk smallParams && s.wmLenOk smallParams && decide (s.wmLen.toNat ≤ s.nblocks)) = true ∧
      ({ s with height := 0#16 }).dimsOk smallParams = false ∧
      decide (({ s with wmLen := 2#32 }).wmLen.toNat ≤ s.nblocks) = false := by decide

theorem witness_ExtractProgramRunsToItsEnd :
    let s : State := { small .rgba with host := Line.turns .extract }
    s.busy = false ∧ s.err = none ∧ s.stage = .rgba ∧ s.host = Line.turns .extract ∧
      (s.configOk && s.dimsOk smallParams && s.wmLenOk smallParams && decide (0 < s.nblocks)) = true ∧
      ({ s with strength1 := 0#16 }).configOk = false ∧ ({ s with height := 6#16 }).nblocks = 0 := by decide

/-- 1 and -1, a divisor that is not 0, a denominator that is not 0. -/
theorem witness_RoundingIsNearestTiesToEven_operations :
    F32.finite 0x3F800000#32 = true ∧ F32.finite 0xBF800000#32 = true ∧ F32.toRat 0xBF800000#32 ≠ 0 ∧ 0 < 1 := by
  decide +kernel

/-- Half a unit, a tie between 0 and the smallest subnormal. -/
theorem witness_RoundingIsNearestTiesToEven :
    0 < 2 ∧ F32.finite (F32.round false 1 2) = true ∧ F32.finite 0x00000001#32 = true ∧
      F32.toRat 0x00000001#32 ≠ F32.toRat (F32.round false 1 2) ∧
      |F32.toRat (F32.round false 1 2) - (1 : Rat) * (((1 : Nat) : Rat) / ((2 : Nat) : Rat)) / 2 ^ 149|
        = |F32.toRat 0x00000001#32 - (1 : Rat) * (((1 : Nat) : Rat) / ((2 : Nat) : Rat)) / 2 ^ 149| := by
  decide +kernel

theorem witness_SmallNaturalsAreExact : 0 < 2 ^ 24 ∧ 2 ^ 24 - 1 < 2 ^ 24 := by decide

/-- a = 0 and a = 1, b = 1; a negative zero also meets the hypotheses. -/
theorem witness_RemainderIsExact :
    F32.finite 0x00000000#32 = true ∧ F32.finite 0x3F800000#32 = true ∧ 0 ≤ F32.toRat 0x00000000#32 ∧
      0 ≤ F32.toRat 0x80000000#32 ∧ 0 < F32.toRat 0x3F800000#32 := by decide +kernel

end Sys2Proof.Tests
end

section
/-! PROOFS. binary32 of 00_scope R10: what a word made by `pack` stands for, which numbers of units a finite word can
stand for, and that `round` picks the nearest of them, ties to even. The last place of a rounding is `2 ^ place`
units: the finite values next to the exact one are `quot` and `quot + 1` times that, and nothing finite lies between
(`Representable.outside_gap`). -/

namespace Sys2Proof.Machine.F32

open Sys2Proof

/-! ### The rational a finite word stands for -/

/-- ±y units of 2^-149. -/
def signed (neg : Bool) (y : Rat) : Rat := (if neg then -1 else 1) * y / 2 ^ 149

theorem signed_false (y : Rat) : signed false y = y / 2 ^ 149 := by simp [signed]

theorem signed_true (y : Rat) : signed true y = -(y / 2 ^ 149) := by simp [signed, neg_div]

theorem signed_not (neg : Bool) (y : Rat) : signed (!neg) y = -signed neg y := by
  cases neg <;> simp [signed_false, signed_true]

theorem signed_add (neg : Bool) (x y : Rat) : signed neg (x + y) = signed neg x + signed neg y := by
  unfold signed; ring

theorem signed_neg (neg : Bool) (y : Rat) : signed neg (-y) = -signed neg y := by
  unfold signed; ring

theorem signed_eq_zero_iff (neg : Bool) (y : Rat) : signed neg y = 0 ↔ y = 0 := by
  cases neg <;> simp [signed_false, signed_true]

theorem abs_signed_sub_signed (neg : Bool) (x y : Rat) :
    |signed neg x - signed neg y| = |x - y| / 2 ^ 149 := by
  have hpos : |(2 : Rat) ^ 149| = 2 ^ 149 := abs_of_pos (by positivity)
  cases neg
  · rw [signed_false, signed_false, ← sub_div, abs_div, hpos]
  · rw [signed_true, signed_true, neg_sub_neg, ← sub_div, abs_div, hpos, abs_sub_comm]

/-- Any signed value in the sign of another one. -/
theorem signed_eq_signed_of_sign (neg s : Bool) (y : Rat) :
    signed s y = signed neg (if s = neg then y else -y) := by
  split
  · next h => rw [h]
  · next h => rw [Bool.eq_not_of_ne h, signed_not, signed_neg]

theorem toRat_of_val {w : Word} {neg : Bool} {m : Nat} (h : val w = .fin neg m) : toRat w = signed neg m := by
  cases neg <;> simp [toRat, h, signed_false, signed_true]

/-! ### The numbers of units a finite word can stand for -/

/-- At most 24 significant bits, and no greater than the largest finite binary32 value. -/
def Representable (v : Nat) : Prop := ∃ c j : Nat, c < 2 ^ 24 ∧ j ≤ 253 ∧ v = c * 2 ^ j

theorem expField_le (w : Word) : expField w ≤ 255 := by unfold expField; omega

theorem fracField_lt (w : Word) : fracField w < 2 ^ 23 := by unfold fracField; omega

theorem val_of_subnormal {w : Word} (h : expField w = 0) : val w = .fin (sign w) (fracField w) := by
  simp [val, h]

theorem val_of_normal {w : Word} (h0 : expField w ≠ 0) (h : expField w ≠ 255) :
    val w = .fin (sign w) ((2 ^ 23 + fracField w) * 2 ^ (expField w - 1)) := by
  simp [val, h0, h]

theorem val_of_finite {w : Word} (h : finite w = true) : ∃ s v, val w = .fin s v ∧ Representable v := by
  have he : expField w ≠ 255 := by simpa [finite] using h
  have hle := expField_le w
  have hfrac := fracField_lt w
  by_cases h0 : expField w = 0
  · exact ⟨sign w, fracField w, val_of_subnormal h0, fracField w, 0, by omega, by omega, by simp⟩
  · exact ⟨sign w, (2 ^ 23 + fracField w) * 2 ^ (expField w - 1), val_of_normal h0 he,
      2 ^ 23 + fracField w, expField w - 1, by omega, by omega, rfl⟩

theorem finite_of_val {w : Word} {s : Bool} {m : Nat} (h : val w = .fin s m) : finite w = true := by
  by_contra hfin
  have he : expField w = 255 := by simpa [finite] using hfin
  by_cases hf : fracField w = 0 <;> simp [val, he, hf] at h

/-- No representable value lies strictly between two neighbours whose last place is `2 ^ e`. -/
theorem Representable.outside_gap {v n e : Nat} (hv : Representable v) (hn : e = 0 ∨ 2 ^ 23 ≤ n) :
    v ≤ n * 2 ^ e ∨ (n + 1) * 2 ^ e ≤ v := by
  obtain ⟨c, j, hc, -, rfl⟩ := hv
  by_cases hje : e ≤ j
  · obtain ⟨k, rfl⟩ := Nat.exists_eq_add_of_le hje
    have hmul : c * 2 ^ (e + k) = c * 2 ^ k * 2 ^ e := by rw [pow_add]; ring
    rw [hmul]
    exact (Nat.lt_or_ge n (c * 2 ^ k)).symm.imp (Nat.mul_le_mul_right _) (Nat.mul_le_mul_right _)
  · left
    obtain ⟨k, rfl⟩ := Nat.exists_eq_add_of_lt (Nat.lt_of_not_le hje)
    have hn' : 2 ^ 23 ≤ n := by omega
    calc c * 2 ^ j ≤ (n * 2) * 2 ^ j := Nat.mul_le_mul_right _ (by omega)
      _ = n * 2 ^ (j + 1) := by ring
      _ ≤ n * 2 ^ (j + k + 1) := Nat.mul_le_mul_left _ (Nat.pow_le_pow_right (by decide) (by omega))

/-! ### Fields and value of a packed word -/

theorem toNat_pack (neg : Bool) (m : Nat) :
    (pack neg m).toNat = min m 0x7F800000 + if neg then 2 ^ 31 else 0 := by
  unfold pack
  rw [BitVec.toNat_ofNat]
  apply Nat.mod_eq_of_lt
  split <;> omega

theorem expField_pack (neg : Bool) (m : Nat) : expField (pack neg m) = min m 0x7F800000 / 2 ^ 23 := by
  unfold expField
  rw [toNat_pack]
  split <;> omega

theorem fracField_pack (neg : Bool) (m : Nat) : fracField (pack neg m) = min m 0x7F800000 % 2 ^ 23 := by
  unfold fracField
  rw [toNat_pack]
  split <;> omega

theorem sign_pack (neg : Bool) (m : Nat) : sign (pack neg m) = neg := by
  unfold sign
  rw [← BitVec.testBit_toNat, toNat_pack, Nat.testBit_eq_decide_div_mod_eq]
  cases neg
  · simp only [Bool.false_eq_true, if_false, decide_eq_false_iff_not]
    omega
  · simp only [if_true, decide_eq_true_eq]
    omega

theorem finite_pack_iff (neg : Bool) (m : Nat) : finite (pack neg m) = true ↔ m < 0x7F800000 := by
  simp only [finite, expField_pack, bne_iff_ne]
  omega

theorem getLsbD_zero_pack {neg : Bool} {m : Nat} (h : m < 0x7F800000) :
    (pack neg m).getLsbD 0 = decide (m % 2 = 1) := by
  rw [← BitVec.testBit_toNat, toNat_pack, Nat.testBit_zero, Nat.min_eq_left h.le, decide_eq_decide]
  split <;> omega

/-- The sum of a shifted exponent and a significand is the word of that value: a carry out of the significand
(`n = 2 ^ 24`) is the next exponent. -/
theorem val_pack {neg : Bool} {e n : Nat} (hn : e = 0 ∨ 2 ^ 23 ≤ n) (hn' : n ≤ 2 ^ 24)
    (hfin : e * 2 ^ 23 + n < 0x7F800000) : val (pack neg (e * 2 ^ 23 + n)) = .fin neg (n * 2 ^ e) := by
  have hexp := expField_pack neg (e * 2 ^ 23 + n)
  have hfrac := fracField_pack neg (e * 2 ^ 23 + n)
  rw [Nat.min_eq_left hfin.le] at hexp hfrac
  rcases Nat.lt_or_ge n (2 ^ 23) with hsub | hnorm
  · obtain rfl : e = 0 := by omega
    rw [val_of_subnormal (by omega), sign_pack, hfrac, Nat.mod_eq_of_lt (by omega)]
    simp
  rw [val_of_normal (by omega) (by omega), sign_pack, hexp, hfrac]
  rcases Nat.lt_or_eq_of_le hn' with hlt | rfl
  · rw [show 2 ^ 23 + (e * 2 ^ 23 + n) % 2 ^ 23 = n by omega, show (e * 2 ^ 23 + n) / 2 ^ 23 - 1 = e by omega]
  · rw [show 2 ^ 23 + (e * 2 ^ 23 + 2 ^ 24) % 2 ^ 23 = 2 ^ 23 by omega,
      show (e * 2 ^ 23 + 2 ^ 24) / 2 ^ 23 - 1 = e + 1 by omega, pow_succ, pow_succ]
    congr 1
    ring

/-! ### The parts of a rounding -/

/-- The exponent of the last place of the rounded value, in units. -/
def place (num den : Nat) : Nat := dropBits (num / den)

/-- The significand cut off at the last place. -/
def quot (num den : Nat) : Nat := num / (den * 2 ^ place num den)

/-- What is cut off. -/
def rest (num den : Nat) : Nat := num % (den * 2 ^ place num den)

/-- 1 where the significand is raised. -/
def carry (num den : Nat) : Nat :=
  (decide (den * 2 ^ place num den < 2 * rest num den) ||
    (2 * rest num den == den * 2 ^ place num den && quot num den % 2 == 1)).toNat

/-- The rounded value, in units. -/
def rounded (num den : Nat) : Nat := (quot num den + carry num den) * 2 ^ place num den

theorem round_eq_pack (neg : Bool) (num den : Nat) :
    round neg num den = pack neg (place num den * 2 ^ 23 + (quot num den + carry num den)) := by
  rw [← Nat.add_assoc]; rfl

theorem dropBits_of_lt {q : Nat} (hq : q < 2 ^ 24) : dropBits q = 0 := if_pos hq

theorem dropBits_of_ge {q : Nat} (hq : 2 ^ 24 ≤ q) : dropBits q = q.log2 - 23 := if_neg hq.not_gt

/-- A whole part loses exactly the bits beyond 24. -/
theorem dropBits_spec (q : Nat) :
    q / 2 ^ dropBits q < 2 ^ 24 ∧ (dropBits q = 0 ∨ 2 ^ 23 ≤ q / 2 ^ dropBits q) := by
  rcases Nat.lt_or_ge q (2 ^ 24) with hq | hq
  · rw [dropBits_of_lt hq]
    exact ⟨by simpa using hq, .inl rfl⟩
  · have hq0 : q ≠ 0 := by omega
    have hlog : 24 ≤ q.log2 := (Nat.le_log2 hq0).2 hq
    obtain ⟨e, he⟩ := Nat.exists_eq_add_of_le hlog
    have hdrop : dropBits q = e + 1 := by rw [dropBits_of_ge hq]; omega
    have hge : 2 ^ (24 + e) ≤ q := he ▸ Nat.log2_self_le hq0
    have hlt : q < 2 ^ (24 + e + 1) := he ▸ Nat.lt_log2_self
    rw [hdrop, Nat.div_lt_iff_lt_mul (by positivity), Nat.le_div_iff_mul_le (by positivity), ← pow_add, ← pow_add]
    exact ⟨by rwa [show 24 + (e + 1) = 24 + e + 1 by omega], .inr (by rwa [show 23 + (e + 1) = 24 + e by omega])⟩

theorem quot_eq (num den : Nat) : quot num den = num / den / 2 ^ dropBits (num / den) := by
  rw [quot, place, Nat.div_div_eq_div_mul]

theorem quot_lt (num den : Nat) : quot num den < 2 ^ 24 := quot_eq num den ▸ (dropBits_spec _).1

theorem place_eq_zero_or_quot_ge (num den : Nat) : place num den = 0 ∨ 2 ^ 23 ≤ quot num den :=
  quot_eq num den ▸ (dropBits_spec _).2

theorem num_eq_quot_rest (num den : Nat) : num = den * 2 ^ place num den * quot num den + rest num den :=
  (Nat.div_add_mod _ _).symm

theorem rest_lt {num den : Nat} (hden : 0 < den) : rest num den < den * 2 ^ place num den :=
  Nat.mod_lt _ (by positivity)

theorem carry_of_above_half {num den : Nat} (h : den * 2 ^ place num den < 2 * rest num den) :
    carry num den = 1 := by
  rw [carry, decide_eq_true h, Bool.true_or, Bool.toNat_true]

theorem carry_of_below_half {num den : Nat} (h : 2 * rest num den < den * 2 ^ place num den) :
    carry num den = 0 := by
  simp [carry, h.not_gt, h.ne]

theorem carry_of_tie {num den : Nat} (h : 2 * rest num den = den * 2 ^ place num den) :
    carry num den = quot num den % 2 := by
  rcases Nat.mod_two_eq_zero_or_one (quot num den) with hq | hq <;> simp [carry, h, hq]

theorem carry_le (num den : Nat) : carry num den ≤ 1 := Bool.toNat_le _

/-- The significand is kept where at most half a last place is cut off, and raised where at least half is. -/
theorem carry_cases (num den : Nat) :
    carry num den = 0 ∧ 2 * rest num den ≤ den * 2 ^ place num den ∨
      carry num den = 1 ∧ den * 2 ^ place num den ≤ 2 * rest num den := by
  have hle := carry_le num den
  rcases Nat.lt_trichotomy (2 * rest num den) (den * 2 ^ place num den) with hlt | heq | hgt
  · exact .inl ⟨carry_of_below_half hlt, hlt.le⟩
  · omega
  · exact .inr ⟨carry_of_above_half hgt, hgt.le⟩

theorem val_round {neg : Bool} {num den : Nat} (hfin : finite (round neg num den) = true) :
    val (round neg num den) = .fin neg (rounded num den) := by
  have hquot := quot_lt num den
  have hcarry := carry_le num den
  rw [round_eq_pack, finite_pack_iff] at hfin
  rw [round_eq_pack]
  exact val_pack ((place_eq_zero_or_quot_ge num den).imp_right (by omega)) (by omega) hfin

/-- On a tie the fraction bit 0 is 0. -/
theorem getLsbD_zero_round_of_tie {neg : Bool} {num den : Nat} (hfin : finite (round neg num den) = true)
    (htie : 2 * rest num den = den * 2 ^ place num den) : (round neg num den).getLsbD 0 = false := by
  have hcarry := carry_of_tie htie
  rw [round_eq_pack, finite_pack_iff] at hfin
  rw [round_eq_pack, getLsbD_zero_pack hfin, decide_eq_false_iff_not]
  omega

/-! ### Nearest, ties to even -/

/-- The nearer end `R` of a gap `[lo, lo + h]` around `y` is nearest among all values outside the gap; where another
one is equally near, `y` is in the middle. -/
theorem nearest_of_gap {lo h y R z : Rat} (hlo : lo ≤ y) (hhi : y ≤ lo + h)
    (hR : R = lo ∧ 2 * (y - lo) ≤ h ∨ R = lo + h ∧ h ≤ 2 * (y - lo)) (hz : z ≤ lo ∨ lo + h ≤ z) :
    |R - y| ≤ |z - y| ∧ (z ≠ R → |R - y| = |z - y| → 2 * (y - lo) = h) := by
  have hRabs : R = lo ∧ |R - y| = y - lo ∧ 2 * (y - lo) ≤ h ∨
      R = lo + h ∧ |R - y| = lo + h - y ∧ h ≤ 2 * (y - lo) := by
    rcases hR with ⟨rfl, hle⟩ | ⟨rfl, hle⟩
    · exact .inl ⟨rfl, by rw [abs_of_nonpos (by linarith)]; ring, hle⟩
    · exact .inr ⟨rfl, abs_of_nonneg (by linarith), hle⟩
  have hzabs : z ≤ lo ∧ |z - y| = y - z ∨ lo + h ≤ z ∧ |z - y| = z - y := by
    rcases hz with hz | hz
    · exact .inl ⟨hz, by rw [abs_of_nonpos (by linarith)]; ring⟩
    · exact .inr ⟨hz, abs_of_nonneg (by linarith)⟩
  rcases hRabs with ⟨hRlo, hRd, hmid⟩ | ⟨hRhi, hRd, hmid⟩ <;>
    rcases hzabs with ⟨hzle, hzd⟩ | ⟨hzge, hzd⟩ <;> rw [hRd, hzd]
  · exact ⟨by linarith, fun hne heq => absurd (by linarith) hne⟩
  · exact ⟨by linarith, fun _ heq => by linarith⟩
  · exact ⟨by linarith, fun _ heq => by linarith⟩
  · exact ⟨by linarith, fun hne heq => absurd (by linarith) hne⟩

/-- How far the exact value lies above the lower neighbour. -/
theorem exact_sub_lower {num den : Nat} (hden : 0 < den) :
    (num : Rat) / den - quot num den * 2 ^ place num den = (rest num den : Rat) / den := by
  have hden' : (den : Rat) ≠ 0 := by positivity
  have hnum : (num : Rat) = den * 2 ^ place num den * quot num den + rest num den := by
    exact_mod_cast num_eq_quot_rest num den
  field_simp
  linarith

/-- A rounded value is nearest its exact value among ± the representable ones. -/
theorem round_nearest {num den : Nat} (hden : 0 < den) {v : Nat} (hv : Representable v) {z : Rat}
    (hz : z = v ∨ z = -v) :
    |(rounded num den : Rat) - num / den| ≤ |z - num / den| ∧
      (z ≠ rounded num den → |(rounded num den : Rat) - num / den| = |z - num / den| →
        2 * rest num den = den * 2 ^ place num den) := by
  have hden' : (0 : Rat) < den := by positivity
  have hsub := exact_sub_lower (num := num) hden
  have hrest : (rest num den : Rat) / den ≤ 2 ^ place num den := by
    rw [div_le_iff₀' hden']
    exact_mod_cast (rest_lt (num := num) hden).le
  have hrest0 : 0 ≤ (rest num den : Rat) / den := by positivity
  have hnear : (rounded num den : Rat) = quot num den * 2 ^ place num den ∧
        2 * ((num : Rat) / den - quot num den * 2 ^ place num den) ≤ 2 ^ place num den ∨
      (rounded num den : Rat) = quot num den * 2 ^ place num den + 2 ^ place num den ∧
        (2 : Rat) ^ place num den ≤ 2 * (num / den - quot num den * 2 ^ place num den) := by
    rw [hsub, ← mul_div_assoc, div_le_iff₀' hden', le_div_iff₀' hden']
    rcases carry_cases num den with ⟨hc, hle⟩ | ⟨hc, hle⟩
    · exact .inl ⟨by rw [rounded, hc]; push_cast; ring, by exact_mod_cast hle⟩
    · exact .inr ⟨by rw [rounded, hc]; push_cast; ring, by exact_mod_cast hle⟩
  have hout : z ≤ quot num den * 2 ^ place num den ∨
      quot num den * 2 ^ place num den + 2 ^ place num den ≤ z := by
    rcases hz with rfl | rfl
    · rw [← add_one_mul]
      exact_mod_cast hv.outside_gap (place_eq_zero_or_quot_ge num den)
    · exact .inl (le_trans (neg_nonpos.2 (by positivity)) (by positivity))
  obtain ⟨hle, htie⟩ := nearest_of_gap (by linarith) (by linarith) hnear hout
  refine ⟨hle, fun hne heq => ?_⟩
  have hmid := htie hne heq
  rw [hsub, ← mul_div_assoc, div_eq_iff hden'.ne', mul_comm (_ ^ _)] at hmid
  exact_mod_cast hmid

/-- The first part of R10's rounding: nearest, and an even fraction on a tie. -/
theorem round_nearest_even {neg : Bool} {num den : Nat} (hden : 0 < den)
    (hfin : finite (round neg num den) = true) {w : Word} (hw : finite w = true) :
    |toRat (round neg num den) - signed neg (num / den)| ≤ |toRat w - signed neg (num / den)| ∧
      (toRat w ≠ toRat (round neg num den) →
        |toRat (round neg num den) - signed neg (num / den)| = |toRat w - signed neg (num / den)| →
        (round neg num den).getLsbD 0 = false) := by
  obtain ⟨s, v, hval, hv⟩ := val_of_finite hw
  have hz : (if s = neg then (v : Rat) else -v) = v ∨ (if s = neg then (v : Rat) else -v) = -v := by
    split <;> simp
  obtain ⟨hle, htie⟩ := round_nearest (num := num) hden hv hz
  rw [toRat_of_val hval, signed_eq_signed_of_sign neg s, toRat_of_val (val_round hfin), abs_signed_sub_signed,
    abs_signed_sub_signed]
  refine ⟨by gcongr, fun hne heq => getLsbD_zero_round_of_tie hfin (htie ?_ ?_)⟩
  · exact fun h => hne (congrArg _ h)
  · exact (div_left_inj' (by positivity)).1 heq

/-! ### A representable value is its own rounding -/

/-- A representable value has only zero bits below its last place, and that place is within the exponent range. -/
theorem Representable.dropBits_spec {v : Nat} (hv : Representable v) : 2 ^ dropBits v ∣ v ∧ dropBits v ≤ 253 := by
  obtain ⟨c, j, hc, hj, rfl⟩ := hv
  rcases Nat.lt_or_ge (c * 2 ^ j) (2 ^ 24) with hsmall | hlarge
  · simp only [dropBits_of_lt hsmall, pow_zero, one_dvd, Nat.zero_le, and_self]
  · have hlog : (c * 2 ^ j).log2 < 24 + j := by
      rw [Nat.log2_lt (by omega), pow_add]
      exact Nat.mul_lt_mul_of_pos_right hc (by positivity)
    have hle : dropBits (c * 2 ^ j) ≤ j := by rw [dropBits_of_ge hlarge]; omega
    exact ⟨Dvd.dvd.mul_left (pow_dvd_pow 2 hle) c, hle.trans hj⟩

theorem val_round_of_representable (neg : Bool) {v : Nat} (hv : Representable v) :
    val (round neg v 1) = .fin neg v := by
  obtain ⟨hdvd, hplace⟩ := hv.dropBits_spec
  have hp : place v 1 = dropBits v := by simp [place]
  have hrest : rest v 1 = 0 := by simpa [rest, hp] using Nat.mod_eq_zero_of_dvd hdvd
  have hcarry : carry v 1 = 0 := by
    have hpos : 0 < 2 ^ place v 1 := by positivity
    rcases carry_cases v 1 with ⟨h0, -⟩ | ⟨-, hle⟩
    · exact h0
    · omega
  have hquot := quot_lt v 1
  have hfin : finite (round neg v 1) = true := by
    rw [round_eq_pack, finite_pack_iff]
    omega
  have hv' := num_eq_quot_rest v 1
  rw [val_round hfin, rounded, hcarry]
  congr 1
  linarith

theorem representable_mod {m n : Nat} (hm : Representable m) (hn : Representable n) : Representable (m % n) := by
  rcases Nat.lt_or_ge m n with hlt | hge
  · rwa [Nat.mod_eq_of_lt hlt]
  rcases Nat.eq_zero_or_pos n with rfl | hpos
  · rwa [Nat.mod_zero]
  have hmod : m % n < n := Nat.mod_lt _ hpos
  obtain ⟨c, j, hc, hj, rfl⟩ := hm
  obtain ⟨d, k, hd, hk, rfl⟩ := hn
  have hdvd : 2 ^ min j k ∣ c * 2 ^ j % (d * 2 ^ k) :=
    (Nat.dvd_mod_iff ((pow_dvd_pow 2 (min_le_right j k)).mul_left d)).2
      ((pow_dvd_pow 2 (min_le_left j k)).mul_left c)
  obtain ⟨r, hr⟩ := hdvd
  have hbound : c * 2 ^ j % (d * 2 ^ k) < 2 ^ 24 * 2 ^ min j k := by
    rcases min_cases j k with ⟨hmin, -⟩ | ⟨hmin, -⟩ <;> rw [hmin]
    · exact (hmod.trans_le hge).trans (Nat.mul_lt_mul_of_pos_right hc (by positivity))
    · exact hmod.trans (Nat.mul_lt_mul_of_pos_right hd (by positivity))
  rw [hr, mul_comm, Nat.mul_lt_mul_right (by positivity)] at hbound
  exact ⟨r, min j k, hbound, (min_le_left j k).trans hj, by rw [hr, mul_comm]⟩

/-! ### The operations round the exact result -/

theorem roundsTo_round (neg : Bool) (num : Nat) {den : Nat} (hden : 0 < den) :
    roundsTo (round neg num den) (signed neg (num / den)) := ⟨neg, num, den, hden, rfl, rfl⟩

theorem roundsTo_round_one (neg : Bool) (num : Nat) : roundsTo (round neg num 1) (signed neg num) := by
  simpa using roundsTo_round neg num one_pos

theorem roundsTo_addFin (s : Bool) (m : Nat) (t : Bool) (n : Nat) :
    roundsTo (addFin s m t n) (signed s m + signed t n) := by
  unfold addFin
  by_cases hst : s = t
  · subst hst
    have h := roundsTo_round_one s (m + n)
    rw [Nat.cast_add, signed_add] at h
    simpa using h
  · have hs : s = !t := Bool.eq_not_of_ne hst
    simp only [beq_iff_eq, hst, if_false]
    rcases Nat.lt_trichotomy n m with hlt | rfl | hgt
    · have h := roundsTo_round_one s (m - n)
      rw [Nat.cast_sub hlt.le, sub_eq_add_neg, signed_add, signed_neg, ← signed_not, hs, Bool.not_not] at h
      simpa [hlt, hs] using h
    · have h := roundsTo_round_one false 0
      simpa [hs, signed_not, signed_false] using h
    · have h := roundsTo_round_one t (n - m)
      rw [Nat.cast_sub hgt.le, sub_eq_neg_add, signed_add, signed_neg, ← signed_not, ← hs] at h
      simpa [hgt, hgt.not_gt] using h

theorem signed_mul_signed (s t : Bool) (x y : Rat) :
    signed s x * signed t y = signed (s ^^ t) (x * y / 2 ^ 149) := by
  cases s <;> cases t <;> simp [signed_false, signed_true] <;> ring

theorem signed_div_signed (s t : Bool) (x y : Rat) :
    signed s x / signed t y = signed (s ^^ t) (x * 2 ^ 149 / y) := by
  rcases eq_or_ne y 0 with rfl | hy
  · simp [signed]
  · cases s <;> cases t <;> simp [signed_false, signed_true] <;> field_simp

theorem floor_natCast_div (m n : Nat) : Rat.floor ((m : Rat) / n) = (m / n : Nat) :=
  (Rat.floor_natCast_div_natCast m n).trans (Int.natCast_div m n).symm

theorem floor_signed_false (m : Nat) : Rat.floor (signed false m) = (m / 2 ^ 149 : Nat) := by
  rw [signed_false]
  exact_mod_cast floor_natCast_div m (2 ^ 149)

theorem floor_signed_true (m : Nat) :
    Rat.floor (signed true m) = -(((m + (2 ^ 149 - 1)) / 2 ^ 149 : Nat) : Int) := by
  have h : Rat.floor (((-m : Int) : Rat) / ((2 ^ 149 : Nat) : Rat)) = (-m : Int) / ((2 ^ 149 : Nat) : Int) :=
    Rat.floor_intCast_div_natCast (-m) (2 ^ 149)
  have hrat : signed true m = ((-m : Int) : Rat) / ((2 ^ 149 : Nat) : Rat) := by
    rw [signed_true]; push_cast; ring
  rw [hrat, h]
  omega

theorem cast_mul_unit (k : Nat) : ((k * 2 ^ 149 : Nat) : Rat) = k * 2 ^ 149 := by
  rw [Nat.cast_mul, Nat.cast_pow, Nat.cast_ofNat]

/-- A whole number of 2^149 units is that integer. -/
theorem signed_mul_unit (neg : Bool) (k : Nat) :
    signed neg ((k * 2 ^ 149 : Nat) : Rat) = if neg then -(k : Rat) else k := by
  have hunit : ((k * 2 ^ 149 : Nat) : Rat) / 2 ^ 149 = k := by
    rw [cast_mul_unit, mul_div_cancel_right₀ _ (by positivity)]
  cases neg
  · exact (signed_false _).trans hunit
  · exact (signed_true _).trans (congrArg _ hunit)

theorem roundsTo_floorVal (w bad : Word) (s : Bool) (m : Nat) :
    roundsTo (floorVal w bad (.fin s m)) (Rat.floor (signed s m) : Rat) := by
  cases s
  · have h := roundsTo_round_one false (m / 2 ^ 149 * 2 ^ 149)
    rw [signed_mul_unit] at h
    rw [floor_signed_false]
    exact_mod_cast h
  · have h := roundsTo_round_one true ((m + (2 ^ 149 - 1)) / 2 ^ 149 * 2 ^ 149)
    rw [signed_mul_unit] at h
    rw [floor_signed_true]
    exact_mod_cast h

theorem roundsTo_const (n : Nat) {d : Nat} (hd : 0 < d) : roundsTo (const n d) ((n : Rat) / d) := by
  have h := roundsTo_round false (n * 2 ^ 149) hd
  rwa [signed_false, cast_mul_unit, div_right_comm, mul_div_cancel_right₀ _ (by positivity)] at h

theorem roundsTo_ofNat (n : Nat) : roundsTo (ofNat n) n := by
  simpa [const, ofNat] using roundsTo_const n one_pos

section
variable {a b : Word} (ha : finite a = true) (hb : finite b = true)
include ha

theorem roundsTo_floor (o : Open) : roundsTo (floor o a) (Rat.floor (toRat a) : Rat) := by
  obtain ⟨s, m, hval, -⟩ := val_of_finite ha
  rw [toRat_of_val hval, floor, hval]
  exact roundsTo_floorVal _ _ s m

include hb

theorem roundsTo_add (o : Open) : roundsTo (add o a b) (toRat a + toRat b) := by
  obtain ⟨s, m, hvala, -⟩ := val_of_finite ha
  obtain ⟨t, n, hvalb, -⟩ := val_of_finite hb
  rw [toRat_of_val hvala, toRat_of_val hvalb, add, hvala, hvalb]
  exact roundsTo_addFin s m t n

theorem roundsTo_sub (o : Open) : roundsTo (sub o a b) (toRat a - toRat b) := by
  obtain ⟨s, m, hvala, -⟩ := val_of_finite ha
  obtain ⟨t, n, hvalb, -⟩ := val_of_finite hb
  rw [sub_eq_add_neg, toRat_of_val hvala, toRat_of_val hvalb, ← signed_not, sub, hvala, hvalb]
  exact roundsTo_addFin s m (!t) n

theorem roundsTo_mul (o : Open) : roundsTo (mul o a b) (toRat a * toRat b) := by
  obtain ⟨s, m, hvala, -⟩ := val_of_finite ha
  obtain ⟨t, n, hvalb, -⟩ := val_of_finite hb
  have h := roundsTo_round (s ^^ t) (m * n) (den := 2 ^ 149) (by positivity)
  rw [Nat.cast_mul, Nat.cast_pow, Nat.cast_ofNat] at h
  rw [toRat_of_val hvala, toRat_of_val hvalb, signed_mul_signed, mul, hvala, hvalb]
  exact h

theorem roundsTo_div (o : Open) (hne : toRat b ≠ 0) : roundsTo (div o a b) (toRat a / toRat b) := by
  obtain ⟨s, m, hvala, -⟩ := val_of_finite ha
  obtain ⟨t, n, hvalb, -⟩ := val_of_finite hb
  rw [toRat_of_val hvalb, Ne, signed_eq_zero_iff, Nat.cast_eq_zero] at hne
  have h := roundsTo_round (s ^^ t) (m * 2 ^ 149) (Nat.pos_of_ne_zero hne)
  rw [cast_mul_unit] at h
  rw [toRat_of_val hvala, toRat_of_val hvalb, signed_div_signed, div, hvala, hvalb]
  simpa [divVal, hne] using h

end

/-- Settles O58, by the gap lemma for the rounding and one lemma per operation. -/
theorem roundingIsNearestTiesToEven : Obligations.RoundingIsNearestTiesToEven :=
  ⟨fun _ _ _ hden hfin _ hw => round_nearest_even hden hfin hw,
    fun _ _ ha hb => ⟨roundsTo_add ha hb _, roundsTo_sub ha hb _, roundsTo_mul ha hb _, roundsTo_div ha hb _,
      roundsTo_floor ha _⟩,
    fun n _ hd => ⟨roundsTo_ofNat n, roundsTo_const n hd⟩⟩

/-! ### Exact results -/

/-- Settles O59: such a natural is a representable number of units. -/
theorem smallNaturalsAreExact : Obligations.SmallNaturalsAreExact := by
  intro n hn
  have hval : val (ofNat n) = .fin false (n * 2 ^ 149) :=
    val_round_of_representable false ⟨n, 149, hn, by decide, rfl⟩
  have hrat := toRat_of_val hval
  rw [signed_mul_unit] at hrat
  exact ⟨finite_of_val hval, hrat⟩

theorem signed_nonneg_iff (s : Bool) (m : Nat) : 0 ≤ signed s m ↔ s = false ∨ m = 0 := by
  have hpos : 0 ≤ (m : Rat) / 2 ^ 149 := by positivity
  cases s
  · simp [signed_false, hpos]
  · rw [signed_true, neg_nonneg, hpos.ge_iff_eq', div_eq_zero_iff]
    simp

theorem signed_of_nonneg {s : Bool} {m : Nat} (h : 0 ≤ signed s m) : signed s m = signed false m := by
  rcases (signed_nonneg_iff s m).1 h with rfl | rfl
  · rfl
  · simp [signed]

/-- In units, the remainder of the reference formula is the remainder of the naturals. -/
theorem signed_mod (m n : Nat) :
    signed false (m % n : Nat)
      = signed false m - signed false n * (Rat.floor (signed false m / signed false n) : Rat) := by
  have hquot : signed false m / signed false n = (m : Rat) / n := by
    rw [signed_div_signed, Bool.xor_self, signed_false]
    field_simp
  have hmod : ((m % n : Nat) : Rat) = m - n * (m / n : Nat) := by
    rw [eq_sub_iff_add_eq]
    exact_mod_cast Nat.mod_add_div m n
  rw [hquot, floor_natCast_div, signed_false, signed_false, signed_false, hmod, Int.cast_natCast]
  ring

/-- Settles O60: the remainder of two representable numbers of units is representable, so its rounding is exact. -/
theorem remainderIsExact : Obligations.RemainderIsExact := by
  intro a b ha hb ha0 hb0
  obtain ⟨s, m, hvala, hm⟩ := val_of_finite ha
  obtain ⟨t, n, hvalb, hn⟩ := val_of_finite hb
  rw [toRat_of_val hvala] at ha0
  rw [toRat_of_val hvalb] at hb0
  have hn0 : n ≠ 0 := by rintro rfl; simp [signed] at hb0
  have ht : t = false := ((signed_nonneg_iff t n).1 hb0.le).resolve_right hn0
  have hs := (signed_nonneg_iff s m).1 ha0
  have hfmod : params.num.fmod a b = round s (m % n) 1 := by
    show fmodVal _ _ (val a) (val b) = _
    rw [hvala, hvalb, ht]
    rcases hs with rfl | rfl <;> simp [fmodVal, hn0]
  have hval := val_round_of_representable s (representable_mod hm hn)
  have hrem : signed s (m % n : Nat) = signed false (m % n : Nat) :=
    signed_of_nonneg ((signed_nonneg_iff s _).2 (hs.imp_right fun h => by rw [h, Nat.zero_mod]))
  rw [hfmod, toRat_of_val hval, toRat_of_val hvala, toRat_of_val hvalb, hrem, signed_of_nonneg ha0, ht]
  exact ⟨finite_of_val hval, signed_mod m n⟩

end Sys2Proof.Machine.F32
end

section
/-! PROOFS. What a command can do: it is refused or fails, it is RELEASE, or its body runs and writes exactly the cells
`commandWrites` lists. From this: the memories each command writes (10_state R35 to R41), and alpha, which no command
writes inside the image. -/

namespace Sys2Proof.Machine

open Sys2Proof

/-! ### The outcome of a command -/

/-- The checks of a command's own body (46_control R232). NOP and RELEASE have no body in that frame. -/
def bodyAccepts (s : State) : Instr → Prop
  | .nop => False
  | .release => False
  | .cscFwd => s.configOk = true ∧ s.dimsOk params = true
  | .bembed => s.wmLenOk params = true ∧ s.wmLenN ≤ s.nblocks
  | .bextract => s.wmLenOk params = true ∧ 0 < s.nblocks
  | _ => True

/-- DEGRADED after a command whose body runs (10_state R33). -/
def degradedAfter (s : State) : Instr → Word
  | .bembed => BitVec.ofNat 32 (s.overPairs fun ch i => (s.embedOf params ch i).2)
  | .bextract => BitVec.ofNat 32 (s.overPairs fun ch i => (s.extractOf params ch i).2)
  | _ => s.degraded

/-- The state after a command whose body runs. -/
def commandResult (s : State) (i : Instr) : State :=
  { s.fill (commandWrites s i).1 (commandWrites s i).2 with
    stage := (nextStage i).getD s.stage
    degraded := degradedAfter s i }

theorem cscFwdBody_ok {s u : State} (h : cscFwdBody params s = .ok u) :
    bodyAccepts s .cscFwd ∧ u = commandResult s .cscFwd := by
  unfold cscFwdBody at h
  split at h
  · cases h
  · split at h
    · cases h
    · rename_i hconfig hdims
      cases h
      exact ⟨⟨by simpa using hconfig, by simpa using hdims⟩, rfl⟩

theorem bembedBody_ok {s u : State} (h : bembedBody params s = .ok u) :
    bodyAccepts s .bembed ∧ u = commandResult s .bembed := by
  unfold bembedBody at h
  split at h
  · cases h
  · split at h
    · cases h
    · rename_i hlen hcap
      cases h
      exact ⟨⟨by simpa using hlen, by omega⟩, rfl⟩

theorem bextractBody_ok {s u : State} (h : bextractBody params s = .ok u) :
    bodyAccepts s .bextract ∧ u = commandResult s .bextract := by
  unfold bextractBody at h
  split at h
  · cases h
  · split at h
    · cases h
    · rename_i hlen hblocks
      cases h
      exact ⟨⟨by simpa using hlen, by simpa [Nat.pos_iff_ne_zero] using hblocks⟩, rfl⟩

/-- A command in the frame of 46_control R232 records an error at most, or its body runs. -/
theorem runBody_outcome {s t : State} {i : Instr} {body : State → Except ErrCode State}
    (hbody : ∀ u, body s = .ok u → bodyAccepts s i ∧ u = commandResult s i)
    (h : s.runBody (legalStages i) body = .next t) :
    (∃ e, t = { s with err := e }) ∨
      (s.err = none ∧ s.stage ∈ legalStages i ∧ bodyAccepts s i ∧ t = commandResult s i) := by
  rcases State.runBody_cases h with ⟨-, rfl⟩ | ⟨-, -, rfl⟩ | ⟨-, -, e, -, rfl⟩ | ⟨herr, hstage, hok⟩
  · exact .inl ⟨t.err, rfl⟩
  · exact .inl ⟨_, rfl⟩
  · exact .inl ⟨_, rfl⟩
  · exact .inr ⟨herr, hstage, hbody t hok⟩

/-- The same for a command without checks of its own. -/
theorem runBody_outcome_of_ok {s t : State} {i : Instr} {body : State → Except ErrCode State}
    (h : s.runBody (legalStages i) body = .next t) (haccept : bodyAccepts s i)
    (hbody : body s = .ok (commandResult s i)) :
    (∃ e, t = { s with err := e }) ∨
      (s.err = none ∧ s.stage ∈ legalStages i ∧ bodyAccepts s i ∧ t = commandResult s i) :=
  runBody_outcome (fun _ hu => ⟨haccept, Except.ok.inj (hu.symm.trans hbody)⟩) h

/-- Everything a command can do: RELEASE ends the run, a command that is refused or fails changes ERR at most (NOP,
too, changes nothing), and any other one writes its cells, STAGE and DEGRADED. -/
theorem exec_cases {i : Instr} {s t : State} (h : exec i s = .next t) :
    (i = .release ∧ t = s.endRun) ∨ (∃ e, t = { s with err := e }) ∨
      (s.err = none ∧ s.stage ∈ legalStages i ∧ bodyAccepts s i ∧ t = commandResult s i) := by
  cases i with
  | nop => exact .inr (.inl ⟨s.err, (Host.Outcome.next.inj h).symm⟩)
  | release => exact .inl ⟨rfl, (Host.Outcome.next.inj h).symm⟩
  | cscFwd => exact .inr (runBody_outcome (fun _ => cscFwdBody_ok) h)
  | bembed => exact .inr (runBody_outcome (fun _ => bembedBody_ok) h)
  | bextract => exact .inr (runBody_outcome (fun _ => bextractBody_ok) h)
  | pad => exact .inr (runBody_outcome_of_ok (body := padBody) h trivial rfl)
  | dwt => exact .inr (runBody_outcome_of_ok (body := dwtBody params) h trivial rfl)
  | block => exact .inr (runBody_outcome_of_ok (body := blockBody) h trivial rfl)
  | permgen => exact .inr (runBody_outcome_of_ok (body := permgenBody params) h trivial rfl)
  | reasm => exact .inr (runBody_outcome_of_ok (body := reasmBody) h trivial rfl)
  | idwt => exact .inr (runBody_outcome_of_ok (body := idwtBody params) h trivial rfl)
  | unpad => exact .inr (runBody_outcome_of_ok (body := unpadBody) h trivial rfl)
  | cscInv => exact .inr (runBody_outcome_of_ok (body := cscInvBody params) h trivial rfl)
  | vote => exact .inr (runBody_outcome_of_ok (body := voteBody params) h trivial rfl)

/-! ### The cells a command writes -/

theorem cell_commandResult (s : State) (i : Instr) (sp : Space) (a : Nat) :
    (commandResult s i).cell sp a
      = if (sp, a) ∈ (commandWrites s i).1 then sp.fit ((commandWrites s i).2 sp a) else s.cell sp a :=
  s.cell_fill (commandWrites s i).1 (commandWrites s i).2 sp a

/-- The frame of every command: a cell it does not list stays. -/
theorem exec_cell_of_not_mem {i : Instr} {s t : State} {sp : Space} {a : Nat} (h : exec i s = .next t)
    (hcell : (sp, a) ∉ (commandWrites s i).1) : t.cell sp a = s.cell sp a := by
  rcases exec_cases h with ⟨-, rfl⟩ | ⟨e, rfl⟩ | ⟨-, -, -, rfl⟩
  · rfl
  · rfl
  · rw [cell_commandResult, if_neg hcell]

/-- The memories a command writes (10_state R35 to R41). -/
def destinations : Instr → List Space
  | .cscFwd => colourPlanes
  | .pad => allPlanes
  | .dwt => subPlanes
  | .block => blkSpaces
  | .permgen => [.perm]
  | .bembed => blkSpaces
  | .reasm => llPlanes
  | .idwt => channelPlanes
  | .cscInv => colourPlanes
  | .bextract => [.raw]
  | .vote => [.out]
  | .nop => []
  | .unpad => []
  | .release => []

/-- The cells PAD writes: of a plane, in the padding row or in the padding column (40_colour_pad R114). -/
theorem mem_padRow_append_padCol {s : State} {sp : Space} {a : Nat} :
    (sp, a) ∈ s.padRow ++ s.padCol ↔ sp ∈ allPlanes ∧
      ((s.rows % 2 = 1 ∧ ∃ c < s.pw, a = rc s.rows c) ∨ (s.cols % 2 = 1 ∧ ∃ r < s.ph, a = rc r s.cols)) := by
  have hrow : (sp, a) ∈ s.padRow ↔ sp ∈ allPlanes ∧ s.rows % 2 = 1 ∧ ∃ c < s.pw, a = rc s.rows c := by
    by_cases h : s.rows % 2 = 1 <;> simp [State.padRow, h, @eq_comm _ a]
  have hcol : (sp, a) ∈ s.padCol ↔ sp ∈ allPlanes ∧ s.cols % 2 = 1 ∧ ∃ r < s.ph, a = rc r s.cols := by
    by_cases h : s.cols % 2 = 1 <;> simp [State.padCol, h, @eq_comm _ a]
  rw [List.mem_append, hrow, hcol, and_or_left]

theorem space_mem_destinations {s : State} {i : Instr} {sp : Space} {a : Nat} (h : (sp, a) ∈ (commandWrites s i).1) :
    sp ∈ destinations i := by
  cases i with
  | nop => cases h
  | unpad => cases h
  | release => cases h
  | pad => exact (mem_padRow_append_padCol.1 h).1
  | cscFwd => exact (mem_rect.1 h).1
  | dwt => exact (mem_rect.1 h).1
  | reasm => exact (mem_rect.1 h).1
  | idwt => exact (mem_rect.1 h).1
  | cscInv => exact (mem_rect.1 h).1
  | _ => exact (mem_linear.1 h).1

/-- A memory that is no destination of a command is left alone by it. -/
theorem exec_cell_of_not_destination {i : Instr} {s t : State} {sp : Space} (h : exec i s = .next t)
    (hsp : sp ∉ destinations i) (a : Nat) : t.cell sp a = s.cell sp a :=
  exec_cell_of_not_mem h fun hmem => hsp (space_mem_destinations hmem)

/-- Settles O51: a cell that changes is one the command lists, so its memory is a destination of the command. -/
theorem eachMemoryHasItsWriters : Obligations.EachMemoryHasItsWriters := by
  intro i s t sp a h hne
  have hdest : sp ∈ destinations i := by
    by_contra hsp
    exact hne (exec_cell_of_not_destination h hsp a)
  clear h hne
  revert sp
  cases i <;> simp [destinations, colourPlanes, channelPlanes, allPlanes, subPlanes, blkSpaces, llPlanes]

/-! ### Alpha -/

theorem rc_inj {r c r' c' : Nat} (hc : c < 65536) (hc' : c' < 65536) (h : rc r c = rc r' c') : r = r' ∧ c = c' := by
  unfold rc at h
  omega

/-- PAD writes no cell inside HEIGHT x WIDTH. -/
theorem image_not_mem_padding {s : State} {sp : Space} {r c : Nat} (hr : r < s.rows) (hc : c < s.cols) :
    (sp, rc r c) ∉ s.padRow ++ s.padCol := by
  have hcols : s.cols < 65536 := s.width.isLt
  have hpw : s.pw ≤ 65536 := by unfold State.pw; omega
  rw [mem_padRow_append_padCol]
  rintro ⟨-, ⟨-, c', hc', h⟩ | ⟨-, r', -, h⟩⟩
  · have := rc_inj (by omega) (by omega) h
    omega
  · have := rc_inj (by omega) (by omega) h
    omega

/-- Settles O32: PAD alone has P3 among its destinations, and its cells lie outside the image. -/
theorem noCommandWritesAlpha : Obligations.NoCommandWritesAlpha := by
  intro i s t r c h hr hc
  by_cases hpad : i = .pad
  · subst hpad
    exact exec_cell_of_not_mem h (image_not_mem_padding hr hc)
  · refine exec_cell_of_not_destination h ?_ _
    cases i with
    | pad => exact absurd rfl hpad
    | _ => decide

end Sys2Proof.Machine
end

section
/-! PROOFS. PERM-BIJ of the reference SHUFFLE (44_permutation R204, R205), and what PERMGEN writes. -/

namespace Sys2Proof.Machine

open Sys2Proof

theorem swapEntries_perm {f : List Nat} {a b : Nat} (ha : a < f.length) (hb : b < f.length) :
    (swapEntries f a b).Perm f := by
  rw [swapEntries, List.getD_eq_getElem _ _ ha, List.getD_eq_getElem _ _ hb]
  exact List.set_set_perm ha hb

/-- The loop of 44_permutation R205 only exchanges entries. -/
theorem fisherYates_perm (k : Nat) (g : BitVec 64) (f : List Nat) (hk : k ≤ f.length - 1) :
    (fisherYates k g f).Perm f := by
  induction k generalizing g f with
  | zero => exact .rfl
  | succ k ih =>
    have hmod : (splitMixNext g).2.toNat % (k + 2) < k + 2 := Nat.mod_lt _ (by omega)
    have hswap := swapEntries_perm (f := f) (a := k + 1) (b := (splitMixNext g).2.toNat % (k + 2)) (by omega) (by omega)
    exact (ih _ _ (by rw [hswap.length_eq]; omega)).trans hswap

theorem refShuffle_perm (n : Nat) (seed : BitVec 64) : (refShuffle n seed).Perm (List.range n) :=
  fisherYates_perm (n - 1) seed (List.range n) (by rw [List.length_range])

theorem refShuffle_permBij : PermBij refShuffle := fun n seed => by
  have hperm := refShuffle_perm n seed
  exact ⟨by rw [hperm.length_eq, List.length_range], fun x hx => List.mem_range.1 (hperm.mem_iff.1 hx),
    hperm.nodup_iff.2 List.nodup_range⟩

section
variable {P : Config.Params} (hP : PermBij P.shuffle) {s : State} {i j : Nat}
include hP

theorem permEntry_lt (hi : i < s.nblocks) : permEntry P s i < s.nblocks := by
  obtain ⟨hlen, hlt, -⟩ := hP s.nblocks s.seed
  unfold permEntry
  split
  · rw [List.getD_eq_getElem _ _ (hlen.symm ▸ hi)]
    exact hlt _ (List.getElem_mem _)
  · exact hi

theorem permEntry_inj (hi : i < s.nblocks) (hj : j < s.nblocks) (h : permEntry P s i = permEntry P s j) : i = j := by
  obtain ⟨hlen, -, hnodup⟩ := hP s.nblocks s.seed
  unfold permEntry at h
  split at h
  · rw [List.getD_eq_getElem _ _ (hlen.symm ▸ hi), List.getD_eq_getElem _ _ (hlen.symm ▸ hj)] at h
    exact hnodup.getElem_inj_iff.1 h
  · exact h

end

end Sys2Proof.Machine
end

section
/-! PROOFS. Geometry: every extent lies inside the storage when HEIGHT and WIDTH are at most MAXDIM (10_state R32,
R35 to R41), so a command writes nothing outside it. -/

namespace Sys2Proof.Machine

open Sys2Proof

theorem inRect_iff {a rows cols : Nat} : inRect a rows cols = true ↔ rowOf a < rows ∧ colOf a < cols := by
  simp [inRect]

theorem mem_rect_iff_inRect {sps : List Space} {rows cols : Nat} {sp : Space} {a : Nat} (hcols : cols ≤ 65536) :
    (sp, a) ∈ rect sps rows cols ↔ sp ∈ sps ∧ inRect a rows cols = true := by
  rw [mem_rect, inRect_iff]
  refine and_congr_right fun _ => ⟨?_, fun ⟨hr, hc⟩ => ⟨_, _, hr, hc, (rc_rowOf_colOf a).symm⟩⟩
  rintro ⟨r, c, hr, hc, rfl⟩
  rw [rowOf_rc (by omega), colOf_rc (by omega)]
  exact ⟨hr, hc⟩

theorem inRect_mono {a rows cols rows' cols' : Nat} (hr : rows ≤ rows') (hc : cols ≤ cols')
    (h : inRect a rows cols = true) : inRect a rows' cols' = true := by
  rw [inRect_iff] at h ⊢
  omega

theorem inRect_rc {r c rows cols : Nat} (hr : r < rows) (hc : c < cols) (hc' : c < 65536) :
    inRect (rc r c) rows cols = true := by
  rw [inRect_iff, rowOf_rc hc', colOf_rc hc']
  exact ⟨hr, hc⟩

theorem State.rows_lt (s : State) : s.rows < 65536 := s.height.isLt

theorem State.cols_lt (s : State) : s.cols < 65536 := s.width.isLt

theorem State.ph_le (s : State) : s.ph ≤ 65536 := by
  have := s.rows_lt
  unfold State.ph
  omega

theorem State.pw_le (s : State) : s.pw ≤ 65536 := by
  have := s.cols_lt
  unfold State.pw
  omega

theorem State.llc_le (s : State) : s.llc ≤ 65536 := by
  have := s.pw_le
  unfold State.llc
  omega

theorem State.nblocks_le (s : State) : s.nblocks ≤ 2 ^ 26 := by
  have hrows : s.brows ≤ 8192 := by have := s.ph_le; unfold State.brows State.llr Config.bs; omega
  have hcols : s.bcols ≤ 8192 := by have := s.pw_le; unfold State.bcols State.llc Config.bs; omega
  exact (Nat.mul_le_mul hrows hcols).trans_eq (by norm_num)

theorem State.blocked_rows_le (s : State) : Config.bs * s.brows ≤ s.llr := Nat.mul_div_le _ _

theorem State.blocked_cols_le (s : State) : Config.bs * s.bcols ≤ s.llc := Nat.mul_div_le _ _

theorem State.dimsOk_iff {P : Config.Params} {s : State} :
    s.dimsOk P = true ↔ s.rows ≠ 0 ∧ s.cols ≠ 0 ∧ s.rows ≤ P.maxDim ∧ s.cols ≤ P.maxDim := by
  simp [State.dimsOk, and_assoc]

theorem State.wmLenOk_iff {P : Config.Params} {s : State} :
    s.wmLenOk P = true ↔ s.wmLenN ≠ 0 ∧ s.wmLenN ≤ P.maxWm := by
  simp [State.wmLenOk]

section
variable {P : Config.Params} {s : State}

theorem State.ph_le_maxP (h : s.rows ≤ P.maxDim) : s.ph ≤ P.maxP := by
  unfold State.ph Config.Params.maxP
  omega

theorem State.pw_le_maxP (h : s.cols ≤ P.maxDim) : s.pw ≤ P.maxP := by
  unfold State.pw Config.Params.maxP
  omega

theorem State.nblocks_le_maxBlk (hr : s.rows ≤ P.maxDim) (hc : s.cols ≤ P.maxDim) : s.nblocks ≤ P.maxBlk := by
  have hrows : s.brows ≤ P.maxP / 8 := by
    have := State.ph_le_maxP hr
    unfold State.brows State.llr Config.bs
    omega
  have hcols : s.bcols ≤ P.maxP / 8 := by
    have := State.pw_le_maxP hc
    unfold State.bcols State.llc Config.bs
    omega
  exact Nat.mul_le_mul hrows hcols

theorem inStorage_of_mem_rect_planes {sps : List Space} {rows cols : Nat} {sp : Space} {a : Nat}
    (h : (sp, a) ∈ rect sps rows cols) (hsps : ∀ sp ∈ sps, ∃ k, sp = .plane k) (hcols : cols ≤ 65536)
    (hr : rows ≤ P.maxP) (hc : cols ≤ P.maxP) : sp.inStorage P a = true := by
  obtain ⟨hsp, hin⟩ := (mem_rect_iff_inRect hcols).1 h
  obtain ⟨k, rfl⟩ := hsps sp hsp
  exact inRect_mono hr hc hin

theorem inStorage_of_mem_rect_subbands {sps : List Space} {rows cols : Nat} {sp : Space} {a : Nat}
    (h : (sp, a) ∈ rect sps rows cols) (hsps : ∀ sp ∈ sps, ∃ ch b, sp = .sub ch b) (hcols : cols ≤ 65536)
    (hr : rows ≤ P.maxP / 2) (hc : cols ≤ P.maxP / 2) : sp.inStorage P a = true := by
  obtain ⟨hsp, hin⟩ := (mem_rect_iff_inRect hcols).1 h
  obtain ⟨ch, b, rfl⟩ := hsps sp hsp
  exact inRect_mono hr hc hin

theorem inStorage_of_mem_blocks {n : Nat} {sp : Space} {a : Nat} (h : (sp, a) ∈ linear blkSpaces (16 * n))
    (hn : n ≤ P.maxBlk) : sp.inStorage P a = true := by
  obtain ⟨hsp, ha⟩ := mem_linear.1 h
  have hblk : ∀ sp ∈ blkSpaces, ∃ ch, sp = .blk ch := by decide
  obtain ⟨ch, rfl⟩ := hblk sp hsp
  simp only [Space.inStorage, decide_eq_true_eq]
  omega

theorem inStorage_of_mem_padding {sp : Space} {a : Nat} (h : (sp, a) ∈ s.padRow ++ s.padCol)
    (hr : s.rows ≤ P.maxDim) (hc : s.cols ≤ P.maxDim) : sp.inStorage P a = true := by
  have hph := State.ph_le_maxP hr
  have hpw := State.pw_le_maxP hc
  obtain ⟨hsp, hcell⟩ := mem_padRow_append_padCol.1 h
  have hplane : ∀ sp ∈ allPlanes, ∃ k, sp = .plane k := by decide
  obtain ⟨k, rfl⟩ := hplane sp hsp
  rcases hcell with ⟨hodd, c, hlt, rfl⟩ | ⟨hodd, r, hlt, rfl⟩
  · have hrow : s.rows < s.ph := by unfold State.ph; omega
    have := s.pw_le
    exact inRect_rc (by omega) (by omega) (by omega)
  · have hcol : s.cols < s.pw := by unfold State.pw; omega
    exact inRect_rc (by omega) (by omega) s.cols_lt

end

/-- No command writes outside the storage, when the dimensions are those CSC_FWD accepts and, for VOTE, the payload
length is one BEXTRACT accepted. -/
theorem commandWrites_inStorage {s : State} {i : Instr} {sp : Space} {a : Nat} (h : (sp, a) ∈ (commandWrites s i).1)
    (hr : s.rows ≤ params.maxDim) (hc : s.cols ≤ params.maxDim) (hvote : i = .vote → s.wmLenN ≤ params.maxWm) :
    sp.inStorage params a = true := by
  have hph := State.ph_le_maxP hr
  have hpw := State.pw_le_maxP hc
  have hrows : s.rows ≤ params.maxP := by unfold Config.Params.maxP; omega
  have hcols : s.cols ≤ params.maxP := by unfold Config.Params.maxP; omega
  have hllr : s.llr ≤ params.maxP / 2 := Nat.div_le_div_right hph
  have hllc : s.llc ≤ params.maxP / 2 := Nat.div_le_div_right hpw
  have hblk := State.nblocks_le_maxBlk hr hc
  have hbrows := s.blocked_rows_le
  have hbcols := s.blocked_cols_le
  cases i with
  | nop => cases h
  | unpad => cases h
  | release => cases h
  | cscFwd => exact inStorage_of_mem_rect_planes h (by decide) s.cols_lt.le hrows hcols
  | cscInv => exact inStorage_of_mem_rect_planes h (by decide) s.cols_lt.le hrows hcols
  | idwt => exact inStorage_of_mem_rect_planes h (by decide) s.pw_le hph hpw
  | pad => exact inStorage_of_mem_padding h hr hc
  | dwt => exact inStorage_of_mem_rect_subbands h (by simp [subPlanes]) s.llc_le hllr hllc
  | reasm =>
    exact inStorage_of_mem_rect_subbands h (by simp [llPlanes]) (hbcols.trans s.llc_le) (hbrows.trans hllr)
      (hbcols.trans hllc)
  | block => exact inStorage_of_mem_blocks h hblk
  | bembed => exact inStorage_of_mem_blocks h hblk
  | permgen =>
    obtain ⟨hsp, ha⟩ := mem_linear.1 h
    rw [List.mem_singleton.1 hsp]
    exact decide_eq_true (ha.trans_le hblk)
  | bextract =>
    obtain ⟨hsp, ha⟩ := mem_linear.1 h
    rw [List.mem_singleton.1 hsp]
    exact decide_eq_true (ha.trans_le hblk)
  | vote =>
    obtain ⟨hsp, ha⟩ := mem_linear.1 h
    rw [List.mem_singleton.1 hsp]
    exact decide_eq_true (ha.trans_le (hvote rfl))

end Sys2Proof.Machine
end

section
/-! PROOFS. The host port (20_memory R61 to R69, 10_state R24 to R34): which accesses reach a register, what a performed
or a refused one does, and the registers one by one. -/

namespace Sys2Proof.Machine

open Sys2Proof

/-! ### Accesses -/

theorem Reg.ofOffset_eq_some {off : BitVec 8} {r : Reg} (h : Reg.ofOffset off = some r) : off = r.offset := by
  unfold Reg.ofOffset at h
  split at h <;> cases h <;> exact BitVec.eq_of_toNat_eq ‹_›

/-- Only a 32-bit access at a register's own offset reaches the register. -/
theorem regAt_eq_some_iff {off : BitVec 8} {bits : Nat} {r : Reg} :
    regAt off bits = some r ↔ bits = 32 ∧ off = r.offset := by
  constructor
  · intro h
    unfold regAt at h
    split at h
    · exact ⟨‹_›, Reg.ofOffset_eq_some h⟩
    · cases h
  · rintro ⟨rfl, rfl⟩
    exact regAt_offset r

section
variable (P : Config.Params) (s : State)

theorem hostRead_of_regAt_none {off : BitVec 8} {bits : Nat} (h : regAt off bits = none) :
    s.hostRead P off bits = (0#32, s.refuse) := by
  rw [State.hostRead, h]

theorem hostWrite_of_regAt_none {off : BitVec 8} {bits : Nat} (h : regAt off bits = none) (w : Word) :
    s.hostWrite P off bits w = s.refuse := by
  rw [State.hostWrite, h]

theorem hostRead_offset (r : Reg) :
    s.hostRead P r.offset 32 = if s.readOk P r then (s.regValue r, s) else (0#32, s.refuse) := by
  rw [State.hostRead, regAt_offset]

theorem hostWrite_offset {r : Reg} (hr : r ≠ .cmd) (w : Word) :
    s.hostWrite P r.offset 32 w = if s.writeOk P r then s.writeReg P w r else s.refuse := by
  rw [State.hostWrite, regAt_offset]
  cases r with
  | cmd => exact absurd rfl hr
  | _ => rfl

variable {P s}

theorem hostRead_of_readOk {r : Reg} (h : s.readOk P r = true) : s.hostRead P r.offset 32 = (s.regValue r, s) := by
  rw [hostRead_offset, if_pos h]

theorem hostWrite_of_writeOk {r : Reg} (hr : r ≠ .cmd) (h : s.writeOk P r = true) (w : Word) :
    s.hostWrite P r.offset 32 w = s.writeReg P w r := by
  rw [hostWrite_offset P s hr, if_pos h]

theorem hostWrite_of_not_writeOk {r : Reg} (hr : r ≠ .cmd) (h : s.writeOk P r = false) (w : Word) :
    s.hostWrite P r.offset 32 w = s.refuse := by
  rw [hostWrite_offset P s hr, if_neg (by simp [h])]

/-- While BUSY is 0 every register but PDATA can be read. -/
theorem readOk_of_idle (hidle : s.busy = false) {r : Reg} (hr : r ≠ .pdata) : s.readOk P r = true := by
  cases r with
  | pdata => exact absurd rfl hr
  | _ => simp [State.readOk, Reg.cls, hidle]

end

/-- Settles O12: no register stands at such an offset, and none is reached by another width. -/
theorem reservedAndMisalignedAccessesAreRefused : Obligations.ReservedAndMisalignedAccessesAreRefused := by
  intro s off bits w h
  have hnone : regAt off bits = none := by
    rw [Option.eq_none_iff_forall_ne_some]
    rintro r hr
    obtain ⟨rfl, rfl⟩ := regAt_eq_some_iff.1 hr
    have haligned : r.offset.toNat % 4 = 0 ∧ r.offset.toNat < 0x50 := by cases r <;> decide
    omega
  exact ⟨hostWrite_of_regAt_none params s hnone w, hostRead_of_regAt_none params s hnone⟩

/-! ### Who may write -/

theorem stage_of_inputsOpen {P : Config.Params} {s : State} (h : s.inputsOpen P = true) : s.stage = .rgba := by
  by_contra hne
  rw [State.inputsOpen_of_stage P hne] at h
  cases h

theorem inputsOpen_of_writable {P : Config.Params} {s : State} (h : s.writable P = true) : s.inputsOpen P = true := by
  unfold State.writable at h
  split at h
  · exact (Bool.and_eq_true _ _ ▸ h).1
  · exact (Bool.and_eq_true _ _ ▸ h).1
  · cases h

/-- A performed write reaches an input while the inputs are open, or the window registers. -/
theorem inputsOpen_of_writeOk {P : Config.Params} {s : State} {r : Reg} (h : s.writeOk P r = true) :
    r.cls = .command ∨ r.cls = .window ∨ s.inputsOpen P = true := by
  unfold State.writeOk at h
  cases hr : r.cls <;> simp only [hr, Bool.and_eq_true, Bool.false_eq_true] at h
  · exact .inl rfl
  · exact .inr (.inr h.2)
  · exact .inr (.inl rfl)
  · exact .inr (.inr (inputsOpen_of_writable h.2))

/-- A write of the window keeps nothing or writes the selected cell, which is in the storage (log 17). -/
theorem writeWindow_cases (P : Config.Params) (s : State) (w : Word) :
    s.writeReg P w .pdata = s ∨
      ∃ sp, sp.inStorage P s.index = true ∧ s.writeReg P w .pdata = s.setCell sp s.index w := by
  rw [State.writeReg, State.writeWindow]
  split
  · split
    · exact .inr ⟨_, ‹_›, rfl⟩
    · exact .inl rfl
  · exact .inl rfl

/-- A write of the window commutes with an update it does not look at. -/
theorem writeReg_pdata_map {P : Config.Params} {s : State} {f : State → State} (hspace : (f s).space = s.space)
    (hindex : (f s).index = s.index) (hset : ∀ sp a v, (f s).setCell sp a v = f (s.setCell sp a v)) (w : Word) :
    (f s).writeReg P w .pdata = f (s.writeReg P w .pdata) := by
  rw [State.writeReg, State.writeReg, State.writeWindow, State.writeWindow, hspace, hindex]
  cases s.space with
  | none => rfl
  | some sp =>
    show (if sp.inStorage P s.index then (f s).setCell sp s.index w else f s) = _
    rw [hset, ← apply_ite f]

/-- A write of a register changes the memory only inside the storage, and neither BUSY nor STAGE nor
DEGRADED. -/
theorem writeReg_frame (P : Config.Params) (s : State) (w : Word) (r : Reg) :
    (s.writeReg P w r).busy = s.busy ∧ (s.writeReg P w r).stage = s.stage ∧
      (s.writeReg P w r).degraded = s.degraded ∧
      ((s.writeReg P w r).mem = s.mem ∨
        ∃ sp a, sp.inStorage P a = true ∧ (s.writeReg P w r).mem = (s.setCell sp a w).mem) := by
  cases r with
  | pdata =>
    rcases writeWindow_cases P s w with h | ⟨sp, hin, h⟩
    · exact h.symm ▸ ⟨rfl, rfl, rfl, .inl rfl⟩
    · exact h.symm ▸ ⟨rfl, rfl, rfl, .inr ⟨sp, s.index, hin, rfl⟩⟩
  | _ => exact ⟨rfl, rfl, rfl, .inl rfl⟩

/-! ### Status and derived registers -/

/-- Where the layout of STATUS puts its fields (10_state R24); 2^8 combinations of fields. -/
theorem statusLayout : ∀ (e : BitVec 4) (rem acc ovr busy : Bool),
    let w : Word := 0#24 ++ e ++ BitVec.ofBool rem ++ BitVec.ofBool acc ++ BitVec.ofBool ovr ++ BitVec.ofBool busy
    w.getLsbD 0 = busy ∧ w.getLsbD 1 = ovr ∧ w.getLsbD 2 = acc ∧ w.getLsbD 3 = rem ∧ w.extractLsb' 4 4 = e ∧
      w.extractLsb' 8 24 = 0#24 := by
  decide

theorem statusWord_fields (s : State) :
    s.statusWord.getLsbD 0 = s.busy ∧ s.statusWord.getLsbD 1 = s.ovr ∧ s.statusWord.getLsbD 2 = s.acc ∧
      s.statusWord.getLsbD 3 = s.rem ∧ s.statusWord.extractLsb' 4 4 = s.errField ∧
      s.statusWord.extractLsb' 8 24 = 0#24 :=
  statusLayout s.errField s.rem s.acc s.ovr s.busy

/-- Settles O15, register by register. -/
theorem statusFieldsReadAsLaidOut : Obligations.StatusFieldsReadAsLaidOut := by
  intro s
  have hstatus : s.hostRead params 0x04#8 32 = (s.statusWord, s) := hostRead_of_readOk (r := .status) rfl
  obtain ⟨hbusy, hovr, hacc, -, herr, hzero⟩ := statusWord_fields s
  dsimp only
  rw [hstatus]
  refine ⟨hbusy, hovr, hacc, hzero, herr.trans ?_, rfl, hostRead_of_readOk (r := .cmd) rfl,
    (hostRead_of_readOk (r := .stage) rfl).trans ?_,
    fun hidle => hostRead_of_readOk (r := .degraded) (readOk_of_idle hidle (by decide))⟩
  · unfold State.errField
    cases s.err with
    | none => rfl
    | some e => cases e <;> rfl
  · rw [State.regValue]
    cases s.stage <;> rfl

/-- Settles O14: none of the formulas reaches 2^32. -/
theorem derivedRegistersReadTheirFormulas : Obligations.DerivedRegistersReadTheirFormulas := by
  intro s hidle
  have hread : ∀ r : Reg, r ≠ .pdata → s.hostRead params r.offset 32 = (s.regValue r, s) :=
    fun r hr => hostRead_of_readOk (readOk_of_idle hidle hr)
  have hvalue : ∀ (r : Reg) (n : Nat), r ≠ .pdata → s.regValue r = BitVec.ofNat 32 n → n ≤ 2 ^ 26 →
      (s.hostRead params r.offset 32).1.toNat = n := by
    intro r n hr hvalue hn
    rw [hread r hr, hvalue]
    exact Nat.mod_eq_of_lt (by omega)
  have hph := s.ph_le
  have hpw := s.pw_le
  have hbrows := s.blocked_rows_le
  have hbcols := s.blocked_cols_le
  have hllr : s.llr ≤ s.ph := Nat.div_le_self _ _
  have hllc := s.llc_le
  refine ⟨hvalue .ph s.ph (by decide) rfl (by omega), hvalue .pw s.pw (by decide) rfl (by omega),
    hvalue .brows s.brows (by decide) rfl (by unfold Config.bs at hbrows; omega),
    hvalue .bcols s.bcols (by decide) rfl (by unfold Config.bs at hbcols; omega),
    hvalue .nblocks s.nblocks (by decide) rfl s.nblocks_le, ?_, ?_⟩
  · obtain ⟨-, -, -, hrem, -, -⟩ := statusWord_fields s
    refine ((congrArg (fun x : Word × State => x.1.getLsbD 3) (hread .status (by decide))).trans hrem).trans ?_
    show s.rem = decide (s.llr % 4 ≠ 0 ∨ s.llc % 4 ≠ 0)
    exact Bool.eq_iff_iff.2 (by simp [State.rem])
  · show ∀ off ∈ [Reg.ph, .pw, .brows, .bcols, .nblocks, .status].map Reg.offset, _
    rw [List.forall_mem_map]
    exact fun r hr => congrArg Prod.snd (hread r (by rintro rfl; revert hr; decide))

/-! ### Registers the host writes -/

theorem truncate_eq_extractLsb' (w : Word) (n : Nat) : w.truncate n = w.extractLsb' 0 n := by
  ext i hi
  simp

/-- The kept low bits of a word, read back with zeros above. -/
theorem zeroExtend_truncate (w : Word) {n : Nat} (hn : n ≤ 32) :
    (w.truncate n).zeroExtend 32 = w &&& BitVec.ofNat 32 (2 ^ n - 1) := by
  have hpow : 2 ^ n ≤ 2 ^ 32 := Nat.pow_le_pow_right (by decide) hn
  have hpos : 0 < 2 ^ n := by positivity
  apply BitVec.eq_of_toNat_eq
  rw [BitVec.toNat_and, BitVec.toNat_ofNat, Nat.mod_eq_of_lt (a := 2 ^ n - 1) (by omega),
    Nat.and_two_pow_sub_one_eq_mod, BitVec.toNat_setWidth, BitVec.toNat_setWidth,
    Nat.mod_eq_of_lt ((Nat.mod_lt _ hpos).trans_le hpow)]

/-- The configuration registers (10_state R26 to R31). -/
def configRegs : List Reg := [.height, .width, .strength1, .strength2, .mode, .seedLo, .seedHi, .wmLen]

/-- The registers no host write reaches (20_memory R61). -/
def readOnlyRegs : List Reg := [.status, .stage, .ph, .pw, .brows, .bcols, .nblocks, .degraded]

theorem cls_of_mem_configRegs : ∀ r ∈ configRegs, r.cls = .config := by decide

theorem cls_of_mem_readOnlyRegs : ∀ r ∈ readOnlyRegs, r.cls = .alwaysRead ∨ r.cls = .derived := by decide

section
variable {P : Config.Params} {s : State}

theorem inputsOpen_of_rgba (hstage : s.stage = .rgba) (herr : s.err = none ∨ P.errLocks = false) :
    s.inputsOpen P = true := by
  simpa [State.inputsOpen, hstage] using herr

theorem writeOk_of_config {r : Reg} (hr : r.cls = .config) (hidle : s.busy = false) (hopen : s.inputsOpen P = true) :
    s.writeOk P r = true := by
  rw [State.writeOk, hr]
  simp [hidle, hopen]

theorem writeOk_of_window {r : Reg} (hr : r.cls = .window) (hidle : s.busy = false) : s.writeOk P r = true := by
  rw [State.writeOk, hr]
  simp [hidle]

theorem not_writeOk_of_readOnly {r : Reg} (hr : r.cls = .alwaysRead ∨ r.cls = .derived) : s.writeOk P r = false := by
  rw [State.writeOk]
  rcases hr with hr | hr <;> rw [hr]

/-- Where the inputs are closed the host writes CMD, PSEL and PADDR alone. -/
theorem not_writeOk_of_inputsClosed (hclosed : s.inputsOpen P = false) {r : Reg} (hcmd : r ≠ .cmd) (hpsel : r ≠ .psel)
    (hpaddr : r ≠ .paddr) : s.writeOk P r = false := by
  by_contra hok
  rcases inputsOpen_of_writeOk (Bool.eq_true_of_not_eq_false hok) with hr | hr | hopen
  · cases r <;> contradiction
  · cases r <;> contradiction
  · rw [hclosed] at hopen
    cases hopen

end

/-- Settles O13: a configuration register is written in stage 0 while BUSY is 0, and reads back what it keeps. -/
theorem configRegistersKeepTheirFields : Obligations.ConfigRegistersKeepTheirFields := by
  intro s w hidle hstage herr
  have hwrite : ∀ r : Reg, r.cls = .config → s.hostWrite params r.offset 32 w = s.writeReg params w r := by
    intro r hr
    have hcmd : r ≠ .cmd := by rintro rfl; cases hr
    exact hostWrite_of_writeOk hcmd (writeOk_of_config hr hidle (inputsOpen_of_rgba hstage herr)) w
  have htrunc := truncate_eq_extractLsb' w
  refine ⟨htrunc 16 ▸ hwrite .height rfl, htrunc 16 ▸ hwrite .width rfl, htrunc 16 ▸ hwrite .strength1 rfl,
    htrunc 16 ▸ hwrite .strength2 rfl, htrunc 2 ▸ hwrite .mode rfl, hwrite .seedLo rfl, hwrite .seedHi rfl,
    hwrite .wmLen rfl, ?_⟩
  show ∀ off ∈ configRegs.map Reg.offset, _
  rw [List.forall_mem_map]
  intro r hr
  have hcls := cls_of_mem_configRegs r hr
  have hread : (s.writeReg params w r).readOk params r = true := by
    obtain ⟨hbusy, -⟩ := writeReg_frame params s w r
    exact readOk_of_idle (hbusy.trans hidle) (by rintro rfl; cases hcls)
  rw [hwrite r hcls, hostRead_of_readOk hread]
  refine Prod.ext ?_ rfl
  have h16 := zeroExtend_truncate w (n := 16) (by decide)
  have h2 := zeroExtend_truncate w (n := 2) (by decide)
  have h32 : w &&& 0xFFFFFFFF#32 = w := BitVec.and_allOnes
  cases r with
  | height => exact h16
  | width => exact h16
  | strength1 => exact h16
  | strength2 => exact h16
  | mode => exact h2
  | seedLo => exact h32.symm
  | seedHi => exact h32.symm
  | wmLen => exact h32.symm
  | _ => cases hcls

/-- The space a PSEL code selects. -/
theorem space_of_psel {s : State} {sp : Space} (h : s.psel.toNat = sp.code) : s.space = some sp := by
  rw [State.space, h, Space.ofCode_code]

theorem space_of_psel_ge {s : State} (h : 23 ≤ s.psel.toNat) : s.space = none := by
  have hnone : ∀ p : BitVec 5, 23 ≤ p.toNat → Space.ofCode p.toNat = none := by decide
  exact hnone s.psel h

/-- Planes outside HEIGHT x WIDTH, WM from MAXWM on and every other memory are not the host's to write. -/
theorem not_writable_of_outside {P : Config.Params} {s : State} {sp : Space} (hspace : s.space = some sp)
    (hplane : ∀ k, sp = .plane k → ¬ (rowOf s.index < s.rows ∧ colOf s.index < s.cols))
    (hwm : sp = .wm → ¬ s.index < P.maxWm) : s.writable P = false := by
  cases sp with
  | plane k =>
    have hrect : inRect s.index s.rows s.cols = false := by
      rw [← Bool.not_eq_true, inRect_iff]
      exact hplane k rfl
    simp [State.writable, hspace, hrect]
  | wm => simp [State.writable, hspace, Nat.le_of_not_lt (hwm rfl)]
  | _ => simp [State.writable, hspace]

theorem hostWrite_pdata_of_not_writable {P : Config.Params} {s : State} (h : s.writable P = false) (w : Word) :
    s.hostWrite P 0x4C#8 32 w = s.refuse :=
  hostWrite_of_not_writeOk (r := .pdata) (by decide) (by simp [State.writeOk, Reg.cls, h]) w

/-- Settles O11, from the classes of the registers and the extent the host may write. -/
theorem inputsAreLockedOutsideStageZero : Obligations.InputsAreLockedOutsideStageZero := by
  refine ⟨?_, ?_, ?_, ?_, ?_, ?_⟩
  · intro s off bits w hidle hstage hreg
    rcases State.hostWrite_cases params s off bits w with ⟨hat, -⟩ | ⟨r, hcmd, hat, hok, -⟩ | ⟨-, h⟩
    · exact absurd ((regAt_eq_some_iff.1 hat).imp_right .inl) hreg
    · obtain ⟨hbits, hoff⟩ := regAt_eq_some_iff.1 hat
      have hpsel : r ≠ .psel := by rintro rfl; exact hreg ⟨hbits, .inr (.inl hoff)⟩
      have hpaddr : r ≠ .paddr := by rintro rfl; exact hreg ⟨hbits, .inr (.inr hoff)⟩
      rw [not_writeOk_of_inputsClosed (State.inputsOpen_of_stage params hstage) hcmd hpsel hpaddr] at hok
      cases hok
    · exact h
  · intro s w hidle
    show ∀ off ∈ readOnlyRegs.map Reg.offset, _
    rw [List.forall_mem_map]
    intro r hr
    have hcls := cls_of_mem_readOnlyRegs r hr
    exact hostWrite_of_not_writeOk (by rintro rfl; revert hr; decide) (not_writeOk_of_readOnly hcls) w
  · intro s w sp hidle hpsel hcell
    refine hostWrite_pdata_of_not_writable (not_writable_of_outside (space_of_psel hpsel) ?_ ?_) w
    · rintro k rfl
      exact hcell
    · rintro rfl
      exact hcell
  · intro s w hidle hpsel
    exact hostWrite_pdata_of_not_writable (by rw [State.writable, space_of_psel_ge hpsel]) w
  · intro P s w hlocks herr hidle
    show ∀ off ∈ (configRegs ++ [Reg.pdata]).map Reg.offset, _
    rw [List.forall_mem_map]
    intro r hr
    have hnot : ∀ r ∈ configRegs ++ [Reg.pdata], r ≠ .cmd ∧ r ≠ .psel ∧ r ≠ .paddr := by decide
    obtain ⟨hcmd, hpsel, hpaddr⟩ := hnot r hr
    exact hostWrite_of_not_writeOk hcmd
      (not_writeOk_of_inputsClosed (State.inputsOpen_of_locked herr hlocks) hcmd hpsel hpaddr) w
  · intro s w hidle
    have hpsel : s.hostWrite params 0x44#8 32 w = s.writeReg params w .psel :=
      hostWrite_of_writeOk (r := .psel) (by decide) (writeOk_of_window rfl hidle) w
    have hpaddr : s.hostWrite params 0x48#8 32 w = s.writeReg params w .paddr :=
      hostWrite_of_writeOk (r := .paddr) (by decide) (writeOk_of_window rfl hidle) w
    have hread : ∀ r : Reg, r ≠ .pdata → (s.writeReg params w r).hostRead params r.offset 32
        = ((s.writeReg params w r).regValue r, s.writeReg params w r) := by
      intro r hr
      obtain ⟨hbusy, -⟩ := writeReg_frame params s w r
      exact hostRead_of_readOk (readOk_of_idle (hbusy.trans hidle) hr)
    have htrunc := truncate_eq_extractLsb' w 5
    rw [hpsel, hpaddr]
    refine ⟨htrunc ▸ rfl, rfl, (hread .psel (by decide)).trans (Prod.ext ?_ (htrunc ▸ rfl)), hread .paddr (by decide)⟩
    exact zeroExtend_truncate w (n := 5) (by decide)

end Sys2Proof.Machine
end

section
/-! PROOFS. One step: what it can do, when it moves STAGE (10_state R21), that PEND is not observable while BUSY is 0
(R42), and what a reset leaves (R44). -/

namespace Sys2Proof.Machine

open Sys2Proof

/-! ### What a step can do -/

/-- Everything the unit's turn can do (46_control R231, R232). -/
theorem unitTurn_cases {s t : State} (h : s.unitTurn exec = .next t) :
    (s.busy = false ∧ t = s) ∨
    (s.busy = true ∧ ((∃ e, t = { s with err := e, busy := false }) ∨
      ∃ i u, exec i s = .next u ∧ t = { u with busy := false })) := by
  cases hbusy : s.busy with
  | false =>
    rw [State.unitTurn, hbusy, if_neg Bool.false_ne_true] at h
    exact .inl ⟨rfl, (Host.Outcome.next.inj h).symm⟩
  | true =>
    rw [State.unitTurn, hbusy, if_pos rfl] at h
    refine .inr ⟨rfl, ?_⟩
    cases hword : decodeWord s.pend with
    | error _ =>
      rw [State.complete_illegal hword] at h
      have hfail : ∃ e, s.fail .opcode = { s with err := e } := by
        by_cases herr : s.err = none
        · exact ⟨_, State.fail_of_none herr _⟩
        · exact ⟨s.err, State.fail_of_some herr _⟩
      obtain ⟨e, he⟩ := hfail
      exact .inl ⟨e, by rw [← Host.Outcome.next.inj h, he]⟩
    | ok i =>
      rw [State.complete_ok hword] at h
      cases hexec : exec i s with
      | next u => exact .inr ⟨i, u, hexec, by rw [hexec] at h; exact (Host.Outcome.next.inj h).symm⟩
      | fault r => cases r
      | refused r => rw [hexec] at h; cases h

theorem step_of_nil {s : State} (h : s.host = []) : step s = s.unitTurn exec := by
  rw [step, State.advance, h]

theorem step_of_cons {s : State} {turn : Turn} {rest : List Turn} (h : s.host = turn :: rest) :
    step s = State.takeTurn params exec { s with host := rest } turn := by
  rw [step, State.advance, h]

/-- The state in which the turn at the head of the script is taken. -/
def afterTurn (s : State) : State := { s with host := s.host.tail }

/-- Everything a step can do: the unit's turn, a reset, or a turn of the host. -/
theorem step_cases {s t : State} (h : step s = .next t) :
    ((s.host = [] ∨ s.host.head? = some .unit) ∧ (afterTurn s).unitTurn exec = .next t) ∨
    (s.host.head? = some .reset ∧ t = (afterTurn s).doReset) ∨
    (∃ off bits, t = { ((afterTurn s).hostRead params off bits).2 with
      rdata := ((afterTurn s).hostRead params off bits).1 }) ∨
    (∃ off bits w, t = (afterTurn s).hostWrite params off bits w) ∨
    t = (afterTurn s).poll ∨ ∃ turns, t = { afterTurn s with host := turns } := by
  cases hhost : s.host with
  | nil =>
    have hs : afterTurn s = s := by rw [afterTurn, hhost, List.tail_nil, ← hhost]
    exact .inl ⟨.inl rfl, by rw [hs, ← step_of_nil hhost, h]⟩
  | cons turn rest =>
    have hs : { s with host := rest } = afterTurn s := by rw [afterTurn, hhost, List.tail_cons]
    rw [step_of_cons hhost, hs] at h
    cases turn with
    | unit => exact .inl ⟨.inr rfl, h⟩
    | reset => exact .inr (.inl ⟨rfl, (Host.Outcome.next.inj h).symm⟩)
    | read off bits => exact .inr (.inr (.inl ⟨off, bits, (Host.Outcome.next.inj h).symm⟩))
    | write off bits w => exact .inr (.inr (.inr (.inl ⟨off, bits, w, (Host.Outcome.next.inj h).symm⟩)))
    | wait => exact .inr (.inr (.inr (.inr (.inl (Host.Outcome.next.inj h).symm))))
    | fill sp v => exact .inr (.inr (.inr (.inr (.inr ⟨_, (Host.Outcome.next.inj h).symm⟩))))

/-! ### STAGE -/

theorem hostRead_stage (P : Config.Params) (s : State) (off : BitVec 8) (bits : Nat) :
    (s.hostRead P off bits).2.stage = s.stage := by
  rcases State.hostRead_cases P s off bits with ⟨r, -, -, h⟩ | ⟨-, h⟩ <;> rw [h]
  exact State.refuse_stage s

theorem hostWrite_stage (P : Config.Params) (s : State) (off : BitVec 8) (bits : Nat) (w : Word) :
    (s.hostWrite P off bits w).stage = s.stage := by
  rcases State.hostWrite_cases P s off bits w with ⟨-, h⟩ | ⟨r, -, -, -, h⟩ | ⟨-, h⟩
  · rw [h, State.accept]
    split <;> rfl
  · obtain ⟨-, hstage, -⟩ := writeReg_frame P s w r
    rw [h, hstage]
  · rw [h, State.refuse_stage]

/-- Settles O7: a turn of the host keeps STAGE, and an idle unit changes nothing. -/
theorem stageMovesOnlyAtCompletionOrReset : Obligations.StageMovesOnlyAtCompletionOrReset := by
  intro s t h hstage
  rcases step_cases h with ⟨hturn, hunit⟩ | ⟨hturn, rfl⟩ | ⟨off, bits, rfl⟩ | ⟨off, bits, w, rfl⟩ | rfl | ⟨turns, rfl⟩
  · rcases unitTurn_cases hunit with ⟨-, rfl⟩ | ⟨hbusy, ⟨e, rfl⟩ | ⟨i, u, -, rfl⟩⟩
    · exact absurd rfl hstage
    · exact .inr ⟨hbusy, rfl, hturn⟩
    · exact .inr ⟨hbusy, rfl, hturn⟩
  · exact .inl ⟨hturn, rfl⟩
  · exact absurd (hostRead_stage params (afterTurn s) off bits) hstage
  · exact absurd (hostWrite_stage params (afterTurn s) off bits w) hstage
  · exact absurd (State.poll_stage (afterTurn s)) hstage
  · exact absurd rfl hstage

/-! ### PEND -/

/-- What R42 asks of two steps: PEND is the only difference, and there is none once a command is pending. -/
def pendAgree (t u : State) : Prop := Safety.samePort t u ∧ (t.busy = true → u = t)

theorem pendAgree_refl (t : State) : pendAgree t t := ⟨rfl, fun _ => rfl⟩

/-- The state with another word in PEND. -/
def setPend (s : State) (p : Word) : State := { s with pend := p }

theorem pendAgree_of_idle {t : State} (h : t.busy = false) (p : Word) : pendAgree t (setPend t p) :=
  ⟨rfl, fun hbusy => absurd (h.symm.trans hbusy) Bool.false_ne_true⟩

theorem unitTurn_of_idle {s : State} (hidle : s.busy = false) (ex : Meaning) : s.unitTurn ex = .next s := by
  rw [State.unitTurn, hidle, if_neg Bool.false_ne_true]

theorem hostRead_setPend (P : Config.Params) (s : State) (p : Word) (off : BitVec 8) (bits : Nat) :
    (setPend s p).hostRead P off bits = ((s.hostRead P off bits).1, setPend (s.hostRead P off bits).2 p) := by
  cases hreg : regAt off bits with
  | none =>
    rw [hostRead_of_regAt_none P _ hreg, hostRead_of_regAt_none P _ hreg]
    rfl
  | some r =>
    obtain ⟨rfl, rfl⟩ := regAt_eq_some_iff.1 hreg
    have hok : (setPend s p).readOk P r = s.readOk P r := rfl
    have hvalue : (setPend s p).regValue r = s.regValue r := by cases r <;> rfl
    rw [hostRead_offset, hostRead_offset, hok, hvalue]
    split <;> rfl

theorem hostRead_busy (P : Config.Params) (s : State) (off : BitVec 8) (bits : Nat) :
    (s.hostRead P off bits).2.busy = s.busy := by
  rcases State.hostRead_cases P s off bits with ⟨r, -, -, h⟩ | ⟨-, h⟩ <;> rw [h]
  exact State.refuse_busy s

theorem writeReg_setPend (P : Config.Params) (s : State) (p w : Word) (r : Reg) :
    (setPend s p).writeReg P w r = setPend (s.writeReg P w r) p := by
  cases r with
  | pdata => exact writeReg_pdata_map (f := (setPend · p)) rfl rfl (fun _ _ _ => rfl) w
  | _ => rfl

/-- A host write to an idle unit looks at PEND nowhere, and sets it when it is a write of CMD. -/
theorem pendAgree_hostWrite (P : Config.Params) {s : State} (hidle : s.busy = false) (p : Word) (off : BitVec 8)
    (bits : Nat) (w : Word) : pendAgree (s.hostWrite P off bits w) ((setPend s p).hostWrite P off bits w) := by
  have hrefuse : pendAgree s.refuse (setPend s p).refuse := pendAgree_of_idle (t := s.refuse) hidle p
  cases hreg : regAt off bits with
  | none =>
    rw [hostWrite_of_regAt_none P _ hreg, hostWrite_of_regAt_none P _ hreg]
    exact hrefuse
  | some r =>
    obtain ⟨rfl, rfl⟩ := regAt_eq_some_iff.1 hreg
    by_cases hcmd : r = .cmd
    · subst hcmd
      have haccept : (setPend s p).accept w = s.accept w := by
        rw [State.accept, State.accept, hidle, if_neg Bool.false_ne_true, if_neg (hidle ▸ Bool.false_ne_true)]
        rfl
      show pendAgree (s.accept w) ((setPend s p).accept w)
      rw [haccept]
      exact pendAgree_refl _
    · have hok : (setPend s p).writeOk P r = s.writeOk P r := rfl
      rw [hostWrite_offset P _ hcmd, hostWrite_offset P _ hcmd, hok, writeReg_setPend]
      split
      · obtain ⟨hbusy, -⟩ := writeReg_frame P s w r
        exact pendAgree_of_idle (hbusy.trans hidle) p
      · exact hrefuse

theorem pendAgree_takeTurn {s : State} (hidle : s.busy = false) (p : Word) (turn : Turn) {t : State}
    (h : s.takeTurn params exec turn = .next t) :
    ∃ u, (setPend s p).takeTurn params exec turn = .next u ∧ pendAgree t u := by
  have hidle' : (setPend s p).busy = false := hidle
  cases turn with
  | unit =>
    have ht := Host.Outcome.next.inj ((unitTurn_of_idle hidle exec).symm.trans h)
    exact ⟨_, unitTurn_of_idle hidle' exec, ht ▸ pendAgree_of_idle hidle p⟩
  | reset =>
    obtain rfl := Host.Outcome.next.inj h
    exact ⟨_, rfl, pendAgree_refl _⟩
  | read off bits =>
    obtain rfl := Host.Outcome.next.inj h
    refine ⟨_, rfl, ?_⟩
    rw [hostRead_setPend]
    exact pendAgree_of_idle (t := { (s.hostRead params off bits).2 with rdata := (s.hostRead params off bits).1 })
      ((hostRead_busy params s off bits).trans hidle) p
  | write off bits w =>
    obtain rfl := Host.Outcome.next.inj h
    exact ⟨_, rfl, pendAgree_hostWrite params hidle p off bits w⟩
  | wait =>
    obtain rfl := Host.Outcome.next.inj h
    refine ⟨_, rfl, ?_⟩
    rw [State.poll_of_idle hidle, State.poll_of_idle hidle']
    exact pendAgree_of_idle (t := { s with rdata := s.statusWord }) hidle p
  | fill sp v =>
    obtain rfl := Host.Outcome.next.inj h
    exact ⟨_, rfl, pendAgree_of_idle (t := { s with host := s.fillTurns params sp v ++ s.host }) hidle p⟩

/-- Settles O8, by the turn that is taken. -/
theorem pendIsNotObservableWhileIdle : Obligations.PendIsNotObservableWhileIdle := by
  intro s t p hidle h
  show ∃ u, step (setPend s p) = .next u ∧ pendAgree t u
  cases hhost : s.host with
  | nil =>
    have hhost' : (setPend s p).host = [] := hhost
    rw [step_of_nil hhost, unitTurn_of_idle hidle] at h
    rw [step_of_nil hhost', unitTurn_of_idle (s := setPend s p) hidle]
    exact ⟨_, rfl, Host.Outcome.next.inj h ▸ pendAgree_of_idle hidle p⟩
  | cons turn rest =>
    have hhost' : (setPend s p).host = turn :: rest := hhost
    rw [step_of_cons hhost] at h
    rw [step_of_cons hhost']
    exact pendAgree_takeTurn (s := { s with host := rest }) hidle p turn h

/-! ### Reset -/

/-- CSC_FWD of an image without rows, the configuration being right (40_colour_pad R110). -/
theorem exec_cscFwd_of_no_rows {t : State} (herr : t.err = none) (hstage : t.stage = .rgba)
    (hconfig : t.configOk = true) (hrows : t.rows = 0) : exec .cscFwd t = .next { t with err := some .dim } := by
  have hlegal : t.stage ∈ legalStages .cscFwd := List.mem_singleton.2 hstage
  exact State.runBody_error herr hlegal (by simp [cscFwdBody, hconfig, State.dimsOk, hrows])

/-- Settles O26: the script, the last word read and the epoch are all that distinguishes a state after a reset turn from
State.reset. -/
theorem resetLeavesTheSpecifiedValues : Obligations.ResetLeavesTheSpecifiedValues := by
  intro t ht
  obtain ⟨host, rdata, epoch, rfl⟩ : ∃ host rdata epoch,
      t = { State.reset with host := host, rdata := rdata, epoch := epoch } := by
    rcases ht with rfl | ⟨s, rest, hhost, hstep⟩
    · exact ⟨_, _, _, rfl⟩
    · rw [step_of_cons hhost] at hstep
      exact ⟨_, _, _, (Host.Outcome.next.inj hstep).symm⟩
  have hconfig : State.reset.configOk = true := by decide
  have hderived : State.reset.ph = 0 ∧ State.reset.pw = 0 ∧ State.reset.brows = 0 ∧ State.reset.bcols = 0 ∧
      State.reset.nblocks = 0 := by decide
  obtain ⟨hph, hpw, hbrows, hbcols, hblocks⟩ := hderived
  have hstatus : State.reset.statusWord = 0#32 := by decide
  exact ⟨hstatus, rfl, rfl, rfl, rfl, rfl, rfl, rfl, rfl, rfl, rfl, rfl, rfl, hph, hpw, hbrows, hbcols, hblocks, rfl,
    exec_cscFwd_of_no_rows rfl rfl hconfig rfl⟩

end Sys2Proof.Machine
end

section
/-! PROOFS. The invariant Safety.Inv: it holds at reset and in every state of stage 0 with sound memory, a command keeps
it, a turn of the host keeps it, so every step does. -/

namespace Sys2Proof.Machine

open Sys2Proof

/-! ### What the invariant depends on -/

/-- The invariant reads the memory, the configuration, STAGE, DEGRADED and the epoch; no other register matters. -/
theorem inv_congr {P : Config.Params} {s t : State} (hs : Safety.Inv P s)
    (h : t = { s with
      busy := t.busy, ovr := t.ovr, acc := t.acc, err := t.err, psel := t.psel, paddr := t.paddr
      pend := t.pend, host := t.host, rdata := t.rdata }) : Safety.Inv P t := by
  rw [h]
  exact ⟨hs.memWf, hs.storage, hs.config, hs.perm, hs.wmLen, hs.capacity, hs.blocks, hs.degraded, hs.degradedZero⟩

/-- In stage 0 the invariant asks for sound memory and DEGRADED = 0 alone. -/
theorem inv_of_rgba {P : Config.Params} {s : State} (hstage : s.stage = .rgba) (hwf : Mem.wf s.mem)
    (hstorage : Safety.StorageOk P s) (hzero : s.degraded = 0#32) : Safety.Inv P s where
  memWf := hwf
  storage := hstorage
  config h := absurd hstage h
  perm h := by simp [hstage, Safety.afterPermgen] at h
  wmLen h := by simp [hstage] at h
  capacity h := by simp [hstage] at h
  blocks h := by simp [hstage] at h
  degraded := by simp [hzero]
  degradedZero _ := hzero

theorem inv_of_mem_nil {P : Config.Params} {s : State} (hstage : s.stage = .rgba) (hmem : s.mem = [])
    (hzero : s.degraded = 0#32) : Safety.Inv P s :=
  inv_of_rgba hstage (by rw [hmem]; exact reset_mem_wf) (by simp [Safety.StorageOk, hmem]) hzero

/-- Settles O54: after reset the memory is empty. -/
theorem resetMeetsTheInvariant : Obligations.ResetMeetsTheInvariant := inv_of_mem_nil rfl rfl rfl

/-! ### Writes -/

theorem storageOk_setCell {P : Config.Params} {s : State} {sp : Space} {a : Nat} (hs : Safety.StorageOk P s)
    (ha : sp.inStorage P a = true) (v : Word) : Safety.StorageOk P (s.setCell sp a v) := by
  intro e he
  rcases Mem.mem_write he with rfl | he
  · exact ⟨sp, a, rfl, ha⟩
  · exact hs e he

theorem storageOk_fill {P : Config.Params} {s : State} {cells : List (Space × Nat)} {f : Space → Nat → Word}
    (hs : Safety.StorageOk P s) (hcells : ∀ sp a, (sp, a) ∈ cells → sp.inStorage P a = true) :
    Safety.StorageOk P (s.fill cells f) := by
  intro e he
  rcases State.mem_fill he with he | ⟨⟨sp, a⟩, hc, hkey⟩
  · exact hs e he
  · exact ⟨sp, a, hkey, hcells sp a hc⟩

/-! ### The host port -/

theorem inv_writeReg {P : Config.Params} {s : State} (hs : Safety.Inv P s) (hstage : s.stage = .rgba) (w : Word)
    (r : Reg) : Safety.Inv P (s.writeReg P w r) := by
  obtain ⟨-, hstage', hdegraded, hmem⟩ := writeReg_frame P s w r
  refine inv_of_rgba (hstage'.trans hstage) ?_ ?_ (hdegraded.trans (hs.degradedZero hstage))
  · rcases hmem with hmem | ⟨sp, a, -, hmem⟩
    · exact hmem ▸ hs.memWf
    · exact hmem ▸ State.setCell_wf sp a w hs.memWf
  · unfold Safety.StorageOk
    rcases hmem with hmem | ⟨sp, a, hin, hmem⟩
    · exact hmem ▸ hs.storage
    · exact hmem ▸ storageOk_setCell hs.storage hin w

theorem inv_hostWrite {P : Config.Params} {s : State} (hs : Safety.Inv P s) (off : BitVec 8) (bits : Nat) (w : Word) :
    Safety.Inv P (s.hostWrite P off bits w) := by
  rcases State.hostWrite_cases P s off bits w with ⟨-, h⟩ | ⟨r, hcmd, -, hok, h⟩ | ⟨-, h⟩
  · rw [h, State.accept]
    split
    · exact inv_congr hs rfl
    · exact inv_congr hs rfl
  · rw [h]
    rcases inputsOpen_of_writeOk hok with hr | hr | hopen
    · cases r <;> contradiction
    · cases r with
      | psel => exact inv_congr hs rfl
      | paddr => exact inv_congr hs rfl
      | _ => cases hr
    · exact inv_writeReg hs (stage_of_inputsOpen hopen) w r
  · rw [h]
    exact inv_congr hs rfl

theorem inv_hostRead {P : Config.Params} {s : State} (hs : Safety.Inv P s) (off : BitVec 8) (bits : Nat) :
    Safety.Inv P (s.hostRead P off bits).2 := by
  rcases State.hostRead_cases P s off bits with ⟨r, -, -, h⟩ | ⟨-, h⟩
  · rw [h]
    exact hs
  · rw [h]
    exact inv_congr hs rfl

/-! ### Commands -/

theorem embedBlock_count_le (P : Config.Params) (S1 S2 : Nat) (s2en : Bool) (B : Mat Word) (bit : Bool) :
    (embedBlock P S1 S2 s2en B bit).2 ≤ 1 := by
  unfold embedBlock
  split
  · exact Nat.le_refl 1
  · exact Nat.zero_le 1

theorem extractBlock_count_le (P : Config.Params) (S1 S2 : Nat) (s2en : Bool) (B : Mat Word) :
    (extractBlock P S1 S2 s2en B).2 ≤ 1 := by
  unfold extractBlock
  split
  · exact Nat.le_refl 1
  · dsimp only
    split <;> exact Nat.zero_le 1

/-- A count of at most 1 per (block, channel) pair sums to at most 3 * NBLOCKS. -/
theorem overPairs_le {s : State} {g : Ch → Nat → Nat} (hg : ∀ ch i, g ch i ≤ 1) : s.overPairs g ≤ 3 * s.nblocks := by
  have hsum := List.sum_le_card_nsmul ((List.range s.nblocks).map fun i => g 0 i + g 1 i + g 2 i) 3 (by
    intro x hx
    obtain ⟨i, -, rfl⟩ := List.mem_map.1 hx
    have h0 := hg 0 i
    have h1 := hg 1 i
    have h2 := hg 2 i
    omega)
  rw [List.length_map, List.length_range, smul_eq_mul] at hsum
  rw [State.overPairs]
  omega

theorem degradedAfter_le {s : State} (hs : s.degraded.toNat ≤ 3 * s.nblocks) (i : Instr) :
    (degradedAfter s i).toNat ≤ 3 * s.nblocks := by
  cases i with
  | bembed => exact (Nat.mod_le _ _).trans (overPairs_le fun _ _ => embedBlock_count_le _ _ _ _ _ _)
  | bextract => exact (Nat.mod_le _ _).trans (overPairs_le fun _ _ => extractBlock_count_le _ _ _ _ _)
  | _ => exact hs

theorem permOk_congr {s t : State} (hn : t.nblocks = s.nblocks) (hcell : ∀ i, t.cell .perm i = s.cell .perm i)
    (hs : Safety.PermOk s) : Safety.PermOk t := by
  simpa only [Safety.PermOk, State.permAt, hn, hcell] using hs

/-- PERMGEN leaves a bijection (44_permutation R200, R204). -/
theorem permOk_permgen (s : State) : Safety.PermOk (commandResult s .permgen) := by
  have hP : PermBij params.shuffle := refShuffle_permBij
  have hat : ∀ i, i < s.nblocks → (commandResult s .permgen).permAt i = permEntry params s i := by
    intro i hi
    have hlt := permEntry_lt hP hi
    have hle := s.nblocks_le
    have hmem : (Space.perm, i) ∈ (commandWrites s .permgen).1 := mem_linear.2 ⟨List.mem_singleton.2 rfl, hi⟩
    rw [State.permAt, cell_commandResult, if_pos hmem]
    exact Nat.mod_eq_of_lt (by omega)
  refine ⟨fun i hi => ?_, fun i j hi hj h => ?_⟩
  · rw [hat i hi]
    exact permEntry_lt hP hi
  · rw [hat i hi, hat j hj] at h
    exact permEntry_inj hP hi hj h

/-- A command whose body runs works on a configuration CSC_FWD accepted: CSC_FWD checks it, and the invariant has it in
every other stage. -/
theorem config_of_bodyAccepts {s : State} {i : Instr} (hs : Safety.Inv params s) (hstage : s.stage ∈ legalStages i)
    (haccept : bodyAccepts s i) : s.configOk = true ∧ s.dimsOk params = true := by
  cases i with
  | nop => cases haccept
  | release => cases haccept
  | cscFwd => exact haccept
  | _ =>
    refine hs.config fun hrgba => ?_
    rw [hrgba] at hstage
    revert hstage
    decide

theorem nextStage_ne_rgba {s : State} {i : Instr} (haccept : bodyAccepts s i) :
    (commandResult s i).stage ≠ .rgba := by
  cases i with
  | nop => cases haccept
  | release => cases haccept
  | _ => exact Stage.noConfusion

/-- PERM stays a bijection under a command that leads from such a stage on without writing PERM. -/
theorem permOk_commandResult {s : State} {i : Instr} {g : Stage} (hs : Safety.Inv params s) (hstage : s.stage ∈ [g])
    (hg : Safety.afterPermgen g = true) (hperm : .perm ∉ destinations i) : Safety.PermOk (commandResult s i) := by
  refine permOk_congr (s := s) rfl (fun j => ?_) (hs.perm (by rw [List.mem_singleton.1 hstage, hg]))
  rw [cell_commandResult, if_neg fun h => hperm (space_mem_destinations h)]

theorem inv_commandResult {s : State} {i : Instr} (hs : Safety.Inv params s) (hstage : s.stage ∈ legalStages i)
    (haccept : bodyAccepts s i) : Safety.Inv params (commandResult s i) where
  memWf := State.fill_wf _ _ hs.memWf
  storage := by
    obtain ⟨-, -, hr, hc⟩ := State.dimsOk_iff.1 (config_of_bodyAccepts hs hstage haccept).2
    refine storageOk_fill hs.storage fun sp a h => commandWrites_inStorage h hr hc ?_
    rintro rfl
    exact (State.wmLenOk_iff.1 (hs.wmLen (.inr (.inl (List.mem_singleton.1 hstage))))).2
  config _ := (config_of_bodyAccepts hs hstage haccept : s.configOk = true ∧ s.dimsOk params = true)
  perm h := by
    cases i with
    | nop => cases haccept
    | permgen => exact permOk_permgen s
    | bembed => exact permOk_commandResult hs hstage rfl (by decide)
    | bextract => exact permOk_commandResult hs hstage rfl (by decide)
    | vote => exact permOk_commandResult hs hstage rfl (by decide)
    | _ => cases h
  wmLen h := by
    cases i with
    | nop => cases haccept
    | bembed => exact haccept.1
    | bextract => exact haccept.1
    | vote => exact hs.wmLen (.inr (.inl (List.mem_singleton.1 hstage)))
    | _ => rcases h with h | h | h <;> cases h
  capacity h := by
    cases i with
    | nop => cases haccept
    | bembed => exact haccept.2
    | _ => cases h
  blocks h := by
    cases i with
    | nop => cases haccept
    | bextract => exact haccept.2
    | vote => exact hs.blocks (.inl (List.mem_singleton.1 hstage))
    | _ => rcases h with h | h <;> cases h
  degraded := degradedAfter_le hs.degraded i
  degradedZero h := absurd h (nextStage_ne_rgba haccept)

theorem inv_exec {i : Instr} {s t : State} (hs : Safety.Inv params s) (h : exec i s = .next t) :
    Safety.Inv params t := by
  rcases exec_cases h with ⟨-, rfl⟩ | ⟨e, rfl⟩ | ⟨-, hstage, haccept, rfl⟩
  · exact inv_of_rgba rfl hs.memWf hs.storage rfl
  · exact inv_congr hs rfl
  · exact inv_commandResult hs hstage haccept

/-! ### Steps -/

theorem inv_unitTurn {s t : State} (hs : Safety.Inv params s) (h : s.unitTurn exec = .next t) :
    Safety.Inv params t := by
  rcases unitTurn_cases h with ⟨-, rfl⟩ | ⟨-, ⟨e, rfl⟩ | ⟨i, u, hexec, rfl⟩⟩
  · exact hs
  · exact inv_congr hs rfl
  · exact inv_congr (inv_exec hs hexec) rfl

theorem inv_poll {P : Config.Params} {s : State} (hs : Safety.Inv P s) : Safety.Inv P s.poll := by
  unfold State.poll
  split
  · exact inv_congr hs rfl
  · exact inv_congr hs rfl

/-- Settles O55, by the turn that is taken. -/
theorem everyStepKeepsTheInvariant : Obligations.EveryStepKeepsTheInvariant := by
  intro s t hs h
  have hs' : Safety.Inv params (afterTurn s) := inv_congr hs rfl
  rcases step_cases h with ⟨-, hunit⟩ | ⟨-, rfl⟩ | ⟨off, bits, rfl⟩ | ⟨off, bits, w, rfl⟩ | rfl | ⟨turns, rfl⟩
  · exact inv_unitTurn hs' hunit
  · exact inv_of_mem_nil rfl rfl rfl
  · exact inv_congr (inv_hostRead hs' off bits) rfl
  · exact inv_hostWrite hs' off bits w
  · exact inv_poll hs'
  · exact inv_congr hs' rfl

end Sys2Proof.Machine
end

section
/-! PROOFS. The window (20_memory R60 to R65): the cells a read shows in each stage, and the turns of PUT and GET. -/

namespace Sys2Proof.Machine

open Sys2Proof

/-! ### Reads -/

/-- The extents the machine uses are those of the table of 10_state R46. -/
theorem inExtent_iff_extentTable (s : State) (sp : Space) (a : Nat) :
    s.inExtent params sp a = true ↔ extentTable s a sp := by
  have hblk : a < 16 * s.nblocks ↔ a / 16 < s.nblocks := by omega
  have hlen : a < s.wmLenN ↔ a < s.wmLen.toNat := Iff.rfl
  cases sp with
  | plane k =>
    cases hstage : s.stage <;>
      simp [State.inExtent, extentTable, hstage, Stage.originalSize, Stage.paddedPlanes, Stage.code, inRect_iff,
        State.rows, State.cols]
  | _ =>
    cases hstage : s.stage <;>
      simp [State.inExtent, extentTable, hstage, Stage.hasSubbands, Stage.hasBlocks, Stage.hasOut, Stage.hasRaw,
        Stage.hasPerm, Stage.code, inRect_iff, hblk, hlen]

theorem readable_eq_inExtent {P : Config.Params} {s : State} {sp : Space} (hspace : s.space = some sp) :
    s.readable P = s.inExtent P sp s.index := by
  rw [State.readable, hspace]

theorem hostRead_pdata_of_readable {P : Config.Params} {s : State} {sp : Space} (hidle : s.busy = false)
    (hspace : s.space = some sp) (h : s.inExtent P sp s.index = true) :
    s.hostRead P 0x4C#8 32 = (s.cell sp s.index, s) := by
  have hok : s.readOk P .pdata = true := by simp [State.readOk, Reg.cls, hidle, readable_eq_inExtent hspace, h]
  have hvalue : s.regValue .pdata = s.cell sp s.index := by rw [State.regValue, State.windowCell, hspace]
  exact hvalue ▸ hostRead_of_readOk hok

theorem hostRead_pdata_of_not_readable {P : Config.Params} {s : State} (h : s.readable P = false) :
    s.hostRead P 0x4C#8 32 = (0#32, s.refuse) := by
  have hok : ¬ s.readOk P .pdata = true := by simp [State.readOk, Reg.cls, h]
  exact (hostRead_offset P s .pdata).trans (if_neg hok)

/-! ### PUT and GET -/

theorem run_succ_of_next (M : Host.Core) {s u : M.State} (h : M.step s = .next u) (k : Nat) :
    M.run (k + 1) s = M.run k u := by
  rw [Host.Core.run, h]

theorem run_succ_of_step {s u : State} (h : step s = .next u) (k : Nat) :
    Host.Core.run core (k + 1) s = Host.Core.run core k u :=
  run_succ_of_next core (s := s) (u := u) h k

/-- The state with what is the model's own at the port: the script and the last word read. -/
def atPort (s : State) (turns : List Turn) (d : Word) : State := { s with host := turns, rdata := d }

/-- The state with the window on a cell. -/
def selected (s : State) (sp : Space) (a : Nat) : State :=
  { s with psel := BitVec.ofNat 5 sp.code, paddr := BitVec.ofNat 32 a }

theorem space_selected (s : State) (sp : Space) (a : Nat) : (selected s sp a).space = some sp := by
  have := sp.code_lt
  exact space_of_psel (Nat.mod_eq_of_lt (by omega))

theorem index_selected (s : State) (sp : Space) {a : Nat} (ha : a < 2 ^ 32) : (selected s sp a).index = a :=
  Nat.mod_eq_of_lt ha

theorem writeReg_atPort (P : Config.Params) (s : State) (turns : List Turn) (d w : Word) (r : Reg) :
    (atPort s turns d).writeReg P w r = atPort (s.writeReg P w r) turns d := by
  cases r with
  | pdata => exact writeReg_pdata_map (f := (atPort · turns d)) rfl rfl (fun _ _ _ => rfl) w
  | _ => rfl

section
variable {s : State}

theorem step_wait (hidle : s.busy = false) (rest : List Turn) (d : Word) :
    step (atPort s (.wait :: rest) d) = .next (atPort s rest s.statusWord) := by
  rw [step_of_cons rfl]
  exact congrArg Host.Outcome.next (State.poll_of_idle (s := atPort s rest d) hidle)

theorem step_wr {r : Reg} (hr : r ≠ .cmd) (hok : s.writeOk params r = true) (w : Word) (rest : List Turn) (d : Word) :
    step (atPort s (wr r w :: rest) d) = .next (atPort (s.writeReg params w r) rest d) := by
  rw [step_of_cons rfl, ← writeReg_atPort]
  exact congrArg Host.Outcome.next (hostWrite_of_writeOk (s := atPort s rest d) hr hok w)

theorem step_rd {r : Reg} (hok : s.readOk params r = true) (rest : List Turn) (d : Word) :
    step (atPort s (rd r :: rest) d) = .next (atPort s rest (s.regValue r)) := by
  have hvalue : (atPort s rest d).regValue r = s.regValue r := by cases r <;> rfl
  have hread := hostRead_of_readOk (s := atPort s rest d) hok
  rw [step_of_cons rfl, ← hvalue]
  exact congrArg (fun x : Word × State => Host.Outcome.next { x.2 with rdata := x.1 }) hread

variable {sp : Space} {a : Nat} (hidle : s.busy = false)
include hidle

/-- The wait and the two writes that select a cell. -/
theorem run_select (rest : List Turn) (d : Word) (k : Nat) :
    Host.Core.run core (k + 3) (atPort s (.wait :: selectTurns sp a ++ rest) d)
      = Host.Core.run core k (atPort (selected s sp a) rest s.statusWord) := by
  have hpsel : s.writeReg params (BitVec.ofNat 32 sp.code) .psel = { s with psel := BitVec.ofNat 5 sp.code } := by
    rw [State.writeReg, BitVec.truncate_eq_setWidth, BitVec.setWidth_ofNat_of_le (by decide)]
  have hturn1 := step_wait hidle (selectTurns sp a ++ rest) d
  have hturn2 := step_wr (r := .psel) (by decide) (writeOk_of_window rfl hidle) (BitVec.ofNat 32 sp.code)
    (wr .paddr (BitVec.ofNat 32 a) :: rest) s.statusWord
  have hturn3 := step_wr (s := { s with psel := BitVec.ofNat 5 sp.code }) (r := .paddr) (by decide)
    (writeOk_of_window rfl hidle) (BitVec.ofNat 32 a) rest s.statusWord
  rw [hpsel] at hturn2
  exact (run_succ_of_step hturn1 (k + 2)).trans
    ((run_succ_of_step hturn2 (k + 1)).trans (run_succ_of_step hturn3 k))

theorem run_put {w : Word} (ha : a < 2 ^ 32) (hwritable : (selected s sp a).writable params = true)
    (hstorage : sp.inStorage params a = true) (rest : List Turn) (d : Word) (k : Nat) :
    Host.Core.run core (k + 4) (atPort s (putTurns sp a w ++ rest) d)
      = Host.Core.run core k (atPort ((selected s sp a).setCell sp a w) rest s.statusWord) := by
  have hok : (selected s sp a).writeOk params .pdata = true := by
    simp [State.writeOk, Reg.cls, hwritable, show (selected s sp a).busy = false from hidle]
  have hwrite : (selected s sp a).writeReg params w .pdata = (selected s sp a).setCell sp a w := by
    rw [State.writeReg, State.writeWindow, space_selected, index_selected s sp ha]
    exact if_pos hstorage
  have hturn := step_wr (r := .pdata) (by decide) hok w rest s.statusWord
  rw [hwrite] at hturn
  rw [putTurns, List.append_assoc]
  exact (run_select hidle _ d (k + 1)).trans (run_succ_of_step hturn k)

theorem run_get (ha : a < 2 ^ 32) (hextent : s.inExtent params sp a = true) (rest : List Turn) (d : Word) (k : Nat) :
    Host.Core.run core (k + 4) (atPort s (getTurns sp a ++ rest) d)
      = Host.Core.run core k (atPort (selected s sp a) rest (s.cell sp a)) := by
  have hspace := space_selected s sp a
  have hindex := index_selected s sp ha
  have hok : (selected s sp a).readOk params .pdata = true := by
    have hreadable : (selected s sp a).readable params = true := by
      rw [readable_eq_inExtent hspace, hindex]
      exact hextent
    simp [State.readOk, Reg.cls, hreadable, show (selected s sp a).busy = false from hidle]
  have hvalue : (selected s sp a).regValue .pdata = s.cell sp a := by
    rw [State.regValue, State.windowCell, hspace, hindex]
    rfl
  have hturn := step_rd hok rest s.statusWord
  rw [hvalue] at hturn
  rw [getTurns, List.append_assoc]
  exact (run_select hidle _ d (k + 1)).trans (run_succ_of_step hturn k)

end

/-- A PUT and a GET of the same cell return the word as wide as the cell, and write that cell alone. -/
theorem run_put_get {s : State} {sp : Space} {a : Nat} {w : Word} (hidle : s.busy = false)
    (hhost : s.host = putTurns sp a w ++ getTurns sp a) (ha : a < 2 ^ 32)
    (hwritable : (selected s sp a).writable params = true) (hstorage : sp.inStorage params a = true)
    (hextent : s.inExtent params sp a = true) :
    Host.Core.run core 8 s = .next (atPort ((selected s sp a).setCell sp a w) [] (sp.fit w)) := by
  have hcell : ((selected s sp a).setCell sp a w).cell sp a = sp.fit w := by
    rw [State.cell_setCell, if_pos ⟨rfl, rfl⟩]
  have hs : s = atPort s (putTurns sp a w ++ getTurns sp a) s.rdata := by rw [← hhost]; rfl
  have hput := run_put (w := w) hidle ha hwritable hstorage (getTurns sp a) s.rdata 4
  have hget := run_get (s := (selected s sp a).setCell sp a w) hidle ha hextent [] s.statusWord 0
  rw [hcell, List.append_nil] at hget
  rw [hs]
  exact hput.trans hget

/-- Settles O16: the window shows the extents of R46, and the turns of PUT and GET act on the cell they select. -/
theorem planeCellReadsBackWhatTheHostPut : Obligations.PlaneCellReadsBackWhatTheHostPut := by
  refine ⟨?_, ?_, ?_⟩
  · intro s sp hidle hpsel
    have hspace := space_of_psel hpsel
    rw [← inExtent_iff_extentTable, Bool.not_eq_true]
    exact ⟨hostRead_pdata_of_readable hidle hspace,
      fun h => hostRead_pdata_of_not_readable ((readable_eq_inExtent hspace).trans h)⟩
  · intro s hidle hpsel
    exact hostRead_pdata_of_not_readable (by rw [State.readable, space_of_psel_ge hpsel])
  · intro s k r c w hidle hstage herr hr hc hrows hcols hhost
    have hc' : c < 65536 := hc.trans s.cols_lt
    have hr' : r < 65536 := hr.trans s.rows_lt
    have ha : rc r c < 2 ^ 32 := by unfold rc; omega
    have hrect : inRect (rc r c) s.rows s.cols = true := inRect_rc hr hc hc'
    have hwritable : (selected s (.plane k) (rc r c)).writable params = true := by
      rw [State.writable, space_selected, index_selected s _ ha]
      exact Bool.and_eq_true _ _ ▸ ⟨inputsOpen_of_rgba (s := selected s (.plane k) (rc r c)) hstage herr, hrect⟩
    have hstorage : Space.inStorage params (.plane k) (rc r c) = true := by
      refine inRect_mono ?_ ?_ hrect
      · exact hrows.trans (Nat.le_add_right _ _)
      · exact hcols.trans (Nat.le_add_right _ _)
    have hextent : s.inExtent params (.plane k) (rc r c) = true := by
      simp [State.inExtent, hstage, Stage.originalSize, hrect]
    have hcell : ∀ sp a, (atPort ((selected s (.plane k) (rc r c)).setCell (.plane k) (rc r c) w) [] w).cell sp a
        = if sp = .plane k ∧ a = rc r c then w else s.cell sp a :=
      fun sp a => State.cell_setCell (selected s (.plane k) (rc r c)) (.plane k) sp (rc r c) a w
    refine ⟨_, run_put_get hidle hhost ha hwritable hstorage hextent, rfl, rfl, ?_, fun sp a hne => ?_⟩
    · exact (hcell _ _).trans (if_pos ⟨rfl, rfl⟩)
    · exact (hcell sp a).trans (if_neg hne)

end Sys2Proof.Machine
end

section
/-! PROOFS. The order of writes (20_memory R78): a memory in canonical form is determined by what its addresses hold, so
writes of different cells commute. -/

namespace Sys2Proof.Machine

open Sys2Proof

/-! ### The canonical form -/

theorem Mem.lookup_eq_some_iff {m : Mem} (h : m.Pairwise (fun e f => e.1 < f.1)) {e : Nat × Word} :
    m.lookup e.1 = some e.2 ↔ e ∈ m := by
  induction m with
  | nil => simp [Mem.lookup]
  | cons f m ih =>
    obtain ⟨hf, hm⟩ := List.pairwise_cons.1 h
    rw [Mem.lookup, List.mem_cons]
    split
    · rename_i heq
      have hnot : e ∉ m := fun he => absurd (hf e he) (by omega)
      simp [Prod.ext_iff, heq, hnot, eq_comm]
    · rename_i hne
      rw [ih hm, or_iff_right fun he => hne (congrArg Prod.fst he)]

/-- Two memories in canonical form that hold the same at every address are equal. -/
theorem Mem.eq_of_lookup_eq {m n : Mem} (hm : m.Pairwise (fun e f => e.1 < f.1))
    (hn : n.Pairwise (fun e f => e.1 < f.1)) (h : ∀ a, m.lookup a = n.lookup a) : m = n := by
  have hnodup : ∀ {l : Mem}, l.Pairwise (fun e f => e.1 < f.1) → l.Nodup :=
    fun hl => hl.imp fun hlt heq => absurd (heq ▸ hlt) (lt_irrefl _)
  have hperm : m.Perm n := (List.perm_ext_iff_of_nodup (hnodup hm) (hnodup hn)).2 fun e => by
    rw [← Mem.lookup_eq_some_iff hm, ← Mem.lookup_eq_some_iff hn, h]
  exact hperm.eq_of_pairwise (fun _ _ _ _ hlt hgt => absurd hlt hgt.asymm) hm hn

theorem Mem.write_comm {m : Mem} (hm : m.Pairwise (fun e f => e.1 < f.1)) {a b : Nat} (hne : a ≠ b) (v w : Word) :
    (m.write a v).write b w = (m.write b w).write a v := by
  refine Mem.eq_of_lookup_eq (Mem.rising_write b w (Mem.rising_write a v hm))
    (Mem.rising_write a v (Mem.rising_write b w hm)) fun x => ?_
  simp only [Mem.lookup_write]
  by_cases hx : x = a
  · simp [hx, hne]
  · simp [hx]

/-! ### Blocks of writes -/

/-- Writes of two cells commute; the value being a function of the cell, two writes of one cell are the same. -/
theorem State.setCell_comm {s : State} (hs : Mem.wf s.mem) (f : Space → Nat → Word) (c d : Space × Nat) :
    (s.setCell c.1 c.2 (f c.1 c.2)).setCell d.1 d.2 (f d.1 d.2)
      = (s.setCell d.1 d.2 (f d.1 d.2)).setCell c.1 c.2 (f c.1 c.2) := by
  by_cases hcd : c = d
  · rw [hcd]
  · have hkey : c.1.key c.2 ≠ d.1.key d.2 := fun h => hcd (Prod.ext_iff.2 (Space.key_inj.1 h))
    exact congrArg (fun m => { s with mem := m }) (Mem.write_comm hs.1 hkey _ _)

theorem State.fill_perm {cells cells' : List (Space × Nat)} (h : cells.Perm cells') (f : Space → Nat → Word)
    {s : State} (hs : Mem.wf s.mem) : s.fill cells f = s.fill cells' f := by
  induction h generalizing s with
  | nil => rfl
  | cons c _ ih => exact ih (State.setCell_wf c.1 c.2 _ hs)
  | swap c d cs => exact congrArg (State.fill · cs f) (State.setCell_comm hs f d c)
  | trans _ _ ih ih' => exact (ih hs).trans (ih' hs)

/-! ### Commands -/

/-- A command in the frame of 46_control R232 that starts and ends without an error has run its body. -/
theorem runBody_eq_commandResult {s t : State} {i : Instr} {body : State → Except ErrCode State}
    (hbody : ∀ u, body s = .ok u → u = commandResult s i) (h : s.runBody (legalStages i) body = .next t)
    (hs : s.err = none) (ht : t.err = none) : t = commandResult s i := by
  rcases State.runBody_cases h with ⟨herr, -⟩ | ⟨-, -, rfl⟩ | ⟨-, -, e, -, rfl⟩ | ⟨-, -, hok⟩
  · exact absurd hs herr
  · cases ht
  · cases ht
  · exact hbody t hok

/-- The same for a command without checks of its own. -/
theorem runBody_eq_commandResult_of_ok {s t : State} {i : Instr} {body : State → Except ErrCode State}
    (h : s.runBody (legalStages i) body = .next t) (hs : s.err = none) (ht : t.err = none)
    (hbody : body s = .ok (commandResult s i)) : t = commandResult s i :=
  runBody_eq_commandResult (fun _ hu => Except.ok.inj (hu.symm.trans hbody)) h hs ht

/-- A command that starts and ends without an error, and is not RELEASE, writes its cells, STAGE and DEGRADED. -/
theorem exec_eq_commandResult {i : Instr} {s t : State} (h : exec i s = .next t) (hi : i ≠ .release)
    (hs : s.err = none) (ht : t.err = none) : t = commandResult s i := by
  cases i with
  | nop => exact (Host.Outcome.next.inj h).symm
  | release => exact absurd rfl hi
  | cscFwd => exact runBody_eq_commandResult (fun _ hu => (cscFwdBody_ok hu).2) h hs ht
  | bembed => exact runBody_eq_commandResult (fun _ hu => (bembedBody_ok hu).2) h hs ht
  | bextract => exact runBody_eq_commandResult (fun _ hu => (bextractBody_ok hu).2) h hs ht
  | pad => exact runBody_eq_commandResult_of_ok (body := padBody) h hs ht rfl
  | dwt => exact runBody_eq_commandResult_of_ok (body := dwtBody params) h hs ht rfl
  | block => exact runBody_eq_commandResult_of_ok (body := blockBody) h hs ht rfl
  | permgen => exact runBody_eq_commandResult_of_ok (body := permgenBody params) h hs ht rfl
  | reasm => exact runBody_eq_commandResult_of_ok (body := reasmBody) h hs ht rfl
  | idwt => exact runBody_eq_commandResult_of_ok (body := idwtBody params) h hs ht rfl
  | unpad => exact runBody_eq_commandResult_of_ok (body := unpadBody) h hs ht rfl
  | cscInv => exact runBody_eq_commandResult_of_ok (body := cscInvBody params) h hs ht rfl
  | vote => exact runBody_eq_commandResult_of_ok (body := voteBody params) h hs ht rfl

/-- The memory after a command that does not fail is that of its writes; RELEASE has none. -/
theorem exec_mem_of_no_error {i : Instr} {s t : State} (h : exec i s = .next t) (hs : s.err = none)
    (ht : t.err = none) : t.mem = (s.fill (commandWrites s i).1 (commandWrites s i).2).mem := by
  by_cases hi : i = .release
  · subst hi
    exact (congrArg State.mem (Host.Outcome.next.inj h)).symm
  · rw [exec_eq_commandResult h hi hs ht]
    rfl

/-- Settles O53: writes of different cells commute in canonical form, and a command that does not fail is such a block of
writes. -/
theorem orderOfWritesIsNotObservable : Obligations.OrderOfWritesIsNotObservable := by
  refine ⟨fun s cells cells' f hwf hperm => State.fill_perm hperm f hwf, ?_⟩
  intro i s t cells hwf hs h ht hperm
  rw [exec_mem_of_no_error h hs ht, State.fill_perm hperm _ hwf]

end Sys2Proof.Machine
end

section
/-! PROOFS. The host's turn: what the port refuses while a command is pending (20_memory R61, R66, R73), the turn at the
head of the script (R72, 30_encoding R95, R96), and PUT and GET of a payload cell (20_memory R63). -/

namespace Sys2Proof.Machine

open Sys2Proof

/-! ### While BUSY is 1 -/

theorem not_writeOk_of_busy {P : Config.Params} {s : State} (hbusy : s.busy = true) {r : Reg} (hr : r ≠ .cmd) :
    s.writeOk P r = false := by
  cases r with
  | cmd => exact absurd rfl hr
  | _ => simp [State.writeOk, Reg.cls, hbusy]

/-- CMD, STATUS and STAGE are the registers that can be read while BUSY is 1. -/
theorem readOk_iff_of_busy {P : Config.Params} {s : State} (hbusy : s.busy = true) {r : Reg} :
    s.readOk P r = true ↔ r = .cmd ∨ r = .status ∨ r = .stage := by
  cases r <;> simp [State.readOk, Reg.cls, hbusy]

theorem hostWrite_of_busy {P : Config.Params} {s : State} (hbusy : s.busy = true) (off : BitVec 8) (bits : Nat)
    (w : Word) : s.hostWrite P off bits w
      = if bits = 32 ∧ off = 0x00#8 then { s with ovr := true } else { s with acc := true } := by
  rcases State.hostWrite_cases P s off bits w with ⟨hat, h⟩ | ⟨r, hcmd, -, hok, -⟩ | ⟨hnot, h⟩
  · have hoff : bits = 32 ∧ off = 0x00#8 := regAt_eq_some_iff.1 hat
    rw [h, if_pos hoff, State.accept, if_pos hbusy]
  · rw [not_writeOk_of_busy hbusy hcmd] at hok
    cases hok
  · have hoff : ¬ (bits = 32 ∧ off = 0x00#8) := fun hat => (hnot .cmd (regAt_eq_some_iff.2 hat)).1 rfl
    rw [h, if_neg hoff, State.refuse]

theorem hostRead_of_busy {P : Config.Params} {s : State} (hbusy : s.busy = true) (off : BitVec 8) (bits : Nat) :
    s.hostRead P off bits
      = if bits = 32 ∧ off = 0x00#8 then (0#32, s)
        else if bits = 32 ∧ off = 0x04#8 then (s.statusWord, s)
        else if bits = 32 ∧ off = 0x08#8 then (s.stage.code.zeroExtend 32, s)
        else (0#32, { s with acc := true }) := by
  rcases State.hostRead_cases P s off bits with ⟨r, hat, hok, h⟩ | ⟨hnot, h⟩
  · obtain ⟨rfl, rfl⟩ := regAt_eq_some_iff.1 hat
    rw [h]
    rcases (readOk_iff_of_busy hbusy).1 hok with rfl | rfl | rfl <;> rfl
  · have hoff : ∀ r : Reg, r = .cmd ∨ r = .status ∨ r = .stage → ¬ (bits = 32 ∧ off = r.offset) := fun r hr hat =>
      absurd ((hnot r (regAt_eq_some_iff.2 hat)).symm.trans ((readOk_iff_of_busy hbusy).2 hr)) Bool.false_ne_true
    have hcmd : ¬ (bits = 32 ∧ off = 0x00#8) := hoff .cmd (.inl rfl)
    have hstatus : ¬ (bits = 32 ∧ off = 0x04#8) := hoff .status (.inr (.inl rfl))
    have hstage : ¬ (bits = 32 ∧ off = 0x08#8) := hoff .stage (.inr (.inr rfl))
    rw [h, if_neg hcmd, if_neg hstatus, if_neg hstage, State.refuse]

/-- Settles O10: CMD, STATUS and STAGE alone are looked at without BUSY. -/
theorem busyRefusesTheHost : Obligations.BusyRefusesTheHost := fun _ off bits w hbusy =>
  ⟨hostWrite_of_busy hbusy off bits w, hostRead_of_busy hbusy off bits⟩

/-! ### FILL -/

theorem inputsOpen_iff {P : Config.Params} {s : State} :
    s.inputsOpen P = true ↔ s.stage = .rgba ∧ (s.err = none ∨ P.errLocks = false) := by
  simp [State.inputsOpen]

/-- The PUTs of a FILL of a plane, row by row (20_memory R65, 30_encoding R96). -/
theorem fillTurns_plane (P : Config.Params) (s : State) (k : Fin 4) (v : Word) :
    s.fillTurns P (.plane k) v = if s.stage = .rgba ∧ (s.err = none ∨ P.errLocks = false) then
      (List.range s.height.toNat).flatMap fun r => (List.range s.width.toNat).flatMap fun c =>
        putTurns (.plane k) (rc r c) v
      else [] := by
  rw [State.fillTurns, State.writeExtent]
  by_cases h : s.stage = .rgba ∧ (s.err = none ∨ P.errLocks = false)
  · rw [if_pos (inputsOpen_iff.2 h), if_pos h]
    simp [rect, List.flatMap_assoc, List.flatMap_map, State.rows, State.cols]
  · rw [if_neg (mt inputsOpen_iff.1 h), if_neg h, List.flatMap_nil]

/-- The PUTs of a FILL of the payload memory (20_memory R65, 30_encoding R96). -/
theorem fillTurns_wm (P : Config.Params) (s : State) (v : Word) :
    s.fillTurns P .wm v = if s.stage = .rgba ∧ (s.err = none ∨ P.errLocks = false) then
      (List.range P.maxWm).flatMap fun p => putTurns .wm p v
      else [] := by
  rw [State.fillTurns, State.writeExtent]
  by_cases h : s.stage = .rgba ∧ (s.err = none ∨ P.errLocks = false)
  · rw [if_pos (inputsOpen_iff.2 h), if_pos h]
    simp [linear, List.flatMap_map]
  · rw [if_neg (mt inputsOpen_iff.1 h), if_neg h, List.flatMap_nil]

theorem step_fill {s : State} {sp : Space} {v : Word} {rest : List Turn} (h : s.host = .fill sp v :: rest) :
    step s = .next { s with host := s.fillTurns params sp v ++ rest } := step_of_cons h

/-- Settles O5, by the turn at the head of the script. -/
theorem stepPerformsTheHostsTurn : Obligations.StepPerformsTheHostsTurn := by
  intro s off bits w sp rest
  refine ⟨step_of_cons, step_of_cons, fun hidle h => ?_, fun hidle h => ?_, fun hidle h => ?_, fun hbusy h => ?_,
    fun h => ?_⟩
  · exact (step_of_cons h).trans (unitTurn_of_idle (s := { s with host := rest }) hidle exec)
  · exact (step_of_nil h).trans (unitTurn_of_idle hidle exec)
  · exact (step_of_cons h).trans (congrArg Host.Outcome.next (State.poll_of_idle (s := { s with host := rest }) hidle))
  · exact (step_of_cons h).trans (congrArg Host.Outcome.next (State.poll_of_busy (s := { s with host := rest }) hbusy))
  · rw [step_fill h]
    cases sp with
    | plane k => rw [fillTurns_plane]
    | wm => rw [fillTurns_wm]
    | _ => rfl

/-! ### The payload memory -/

theorem maxWm_lt : params.maxWm < 2 ^ 32 := Nat.succ_lt_succ Config.maxWmPred.isLt

/-- Settles O17: the turns of PUT and GET act on the payload cell they select, which is one bit wide. -/
theorem payloadCellKeepsBitZero : Obligations.PayloadCellKeepsBitZero := by
  intro s p w hidle hstage herr hp hhost
  have hp' : p < 2 ^ 32 := hp.trans maxWm_lt
  have hopen : (selected s .wm p).inputsOpen params = true := inputsOpen_iff.2 ⟨hstage, herr⟩
  have hwritable : (selected s .wm p).writable params = true := by
    rw [State.writable, space_selected, index_selected s _ hp']
    exact Bool.and_eq_true _ _ ▸ ⟨hopen, decide_eq_true hp⟩
  refine ⟨_, run_put_get hidle hhost hp' hwritable (decide_eq_true hp) (decide_eq_true hp), rfl, rfl,
    fun sp a hne => ?_⟩
  exact (State.cell_setCell (selected s .wm p) .wm sp p a w).trans (if_neg hne)

end Sys2Proof.Machine
end

section
/-! PROOFS. The command word (30_encoding R90 to R94): decoding is inverse to encoding, the words that are commands, and
what becomes of any other word (R93). -/

namespace Sys2Proof.Machine

open Sys2Proof

/-! ### Decoding and encoding -/

/-- A command word is its two fields (30_encoding R90). -/
theorem zeroField_append_opcField (w : Word) : zeroField w ++ opcField w = w :=
  (BitVec.extractLsb'_append_extractLsb'_eq_extractLsb' rfl).trans BitVec.extractLsb'_eq_self

/-- The shape of a command's word, for every command (30_encoding R90, R91). -/
theorem encode_shape (i : Instr) : Laws.EncodingShape.Statement i := by
  cases i
  exacts [Laws.EncodingShape.nop, Laws.EncodingShape.cscFwd, Laws.EncodingShape.pad, Laws.EncodingShape.dwt,
    Laws.EncodingShape.block, Laws.EncodingShape.permgen, Laws.EncodingShape.bembed, Laws.EncodingShape.reasm,
    Laws.EncodingShape.idwt, Laws.EncodingShape.unpad, Laws.EncodingShape.cscInv, Laws.EncodingShape.bextract,
    Laws.EncodingShape.vote, Laws.EncodingShape.release]

theorem decodeOpc_opcOf (i : Instr) : decodeOpc (opcOf i) = some i := by
  cases i <;> rfl

theorem opcOf_of_decodeOpc {opc : BitVec 8} {i : Instr} (h : decodeOpc opc = some i) : opc = opcOf i := by
  unfold decodeOpc at h
  split at h <;> cases h <;> exact BitVec.eq_of_toNat_eq (by assumption)

theorem decodeWord_encode (i : Instr) : decodeWord (encode i) = .ok i := by
  obtain ⟨-, hzero, hopc, -⟩ := encode_shape i
  simp [decodeWord, hzero, hopc, decodeOpc_opcOf]

theorem encode_of_decodeWord {w : Word} {i : Instr} (h : decodeWord w = .ok i) : w = encode i := by
  unfold decodeWord at h
  split at h
  · rename_i hzero
    split at h
    · rename_i j hopc
      cases h
      rw [← zeroField_append_opcField w, eq_of_beq hzero, opcOf_of_decodeOpc hopc, encode]
    · cases h
  · cases h

/-- Settles O1: a word is the two fields the decoder looks at. -/
theorem decodingIsExact : Obligations.DecodingIsExact :=
  ⟨fun i _ => decodeWord_encode i, fun _ _ => encode_of_decodeWord⟩

/-- Settles O2: the decoder evaluates on each of the words. -/
theorem decodeSampleWords : Obligations.DecodeSampleWords := by
  unfold Obligations.DecodeSampleWords
  decide

/-! ### Illegal words -/

theorem toNat_encode (i : Instr) : (encode i).toNat ≤ 0x0C ∨ (encode i).toNat = 0x0F := by
  cases i <;> decide

theorem isOk_decodeWord_of_lt : ∀ n < 16, n ≤ 0x0C ∨ n = 0x0F → (decodeWord (BitVec.ofNat 32 n)).isOk = true := by
  decide

/-- The words that are commands (30_encoding R91, R93). -/
theorem decodeWord_ok_iff (w : Word) : (∃ i, decodeWord w = .ok i) ↔ w.toNat ≤ 0x0C ∨ w.toNat = 0x0F := by
  constructor
  · rintro ⟨i, h⟩
    exact encode_of_decodeWord h ▸ toNat_encode i
  · intro h
    have hok := isOk_decodeWord_of_lt w.toNat (by omega) h
    rw [BitVec.ofNat_toNat, BitVec.setWidth_eq] at hok
    cases hw : decodeWord w with
    | ok i => exact ⟨i, rfl⟩
    | error e => rw [hw] at hok; cases hok

theorem decodeWord_error_of_illegal {w : Word} (h : ¬ (w.toNat ≤ 0x0C ∨ w.toNat = 0x0F)) :
    ∃ e, decodeWord w = .error e := by
  cases hw : decodeWord w with
  | ok i => exact absurd ((decodeWord_ok_iff w).1 ⟨i, hw⟩) h
  | error e => exact ⟨e, rfl⟩

/-- fail, as one record update (60_exceptions R253). -/
theorem State.fail_eq (s : State) (e : ErrCode) : s.fail e = { s with err := if s.err = none then some e else s.err } := by
  by_cases h : s.err = none
  · rw [State.fail_of_none h, if_pos h]
  · rw [State.fail_of_some h, if_neg h]

/-- A CMD write to an idle unit (46_control R230). -/
theorem hostWrite_cmd_of_idle (P : Config.Params) {s : State} (hidle : s.busy = false) (w : Word) :
    s.hostWrite P 0x00#8 32 w = { s with pend := w, busy := true } :=
  if_neg (hidle ▸ Bool.false_ne_true)

theorem unitTurn_of_illegal {s : State} {e : DecodeError} (hbusy : s.busy = true) (h : decodeWord s.pend = .error e)
    (ex : Meaning) :
    s.unitTurn ex = .next { s with err := if s.err = none then some .opcode else s.err, busy := false } := by
  rw [State.unitTurn, if_pos hbusy, State.complete_illegal h, State.fail_eq]

/-- Settles O3: acceptance looks at BUSY alone, and the completion of a word the decoder refuses records E_OPCODE. -/
theorem illegalWordsFailWithOpcodeError : Obligations.IllegalWordsFailWithOpcodeError := by
  refine ⟨decodeWord_ok_iff, fun s w hillegal hidle hhost => ?_⟩
  obtain ⟨e, he⟩ := decodeWord_error_of_illegal hillegal
  have haccept : step s = .next { s with host := [.unit], pend := w, busy := true } :=
    (step_of_cons hhost).trans
      (congrArg Host.Outcome.next (hostWrite_cmd_of_idle params (s := { s with host := [.unit] }) hidle w))
  have hcomplete : step { s with host := [.unit], pend := w, busy := true }
      = .next { s with host := [], pend := w, err := if s.err = none then some .opcode else s.err } := by
    rw [step_of_cons rfl]
    refine (unitTurn_of_illegal (s := { s with host := [], pend := w, busy := true }) rfl he exec).trans ?_
    rw [← hidle]
  exact ⟨haccept, (run_succ_of_step haccept 1).trans (run_succ_of_step hcomplete 0)⟩

end Sys2Proof.Machine
end

section
/-! PROOFS. Programs of commands (30_encoding R95, R97, R98): how a command moves STAGE and ERR, and what is left when
a list of command lines has run, from which the ends of EMBED and EXTRACT follow. For any parameters. -/

namespace Sys2Proof.Machine

open Sys2Proof

/-! ### STAGE and ERR after a command -/

/-- STAGE and ERR together: what decides how a run goes on (46_control R232). -/
abbrev Phase := Stage × Option ErrCode

/-- The error a command raises in its legal stages, if any (46_control R233, last column). -/
def bodyError (P : Config.Params) (s : State) : Instr → Option ErrCode
  | .cscFwd => if !s.configOk then some .config else if !s.dimsOk P then some .dim else none
  | .bembed => if !s.wmLenOk P then some .wmlen else if s.nblocks < s.wmLenN then some .capacity else none
  | .bextract => if !s.wmLenOk P then some .wmlen else if s.nblocks == 0 then some .noblocks else none
  | _ => none

/-- The phase after a command, from the errors its body would raise: a recorded error refuses it, then the stage is
checked, then the body's own checks are made (46_control R232, R233). -/
def phaseAfter (check : Instr → Option ErrCode) : Phase → Instr → Phase
  | (g, some e), _ => (g, some e)
  | (g, none), i =>
    if g ∈ legalStages i then (check i).elim ((nextStage i).getD g, none) fun e => (g, some e) else (g, some .stage)

/-- A state with other cells, DEGRADED and phase: all that a command other than RELEASE changes. -/
def State.afterCommand (s : State) (p : Phase) (m : Mem) (d : Word) : State :=
  { s with mem := m, degraded := d, stage := p.1, err := p.2 }

theorem phaseAfter_of_ok {check : Instr → Option ErrCode} {g : Stage} {i : Instr} (hg : g ∈ legalStages i)
    (h : check i = none) : phaseAfter check (g, none) i = ((nextStage i).getD g, none) := by
  rw [phaseAfter, if_pos hg, h, Option.elim]

theorem phaseAfter_of_error {check : Instr → Option ErrCode} {g : Stage} {i : Instr} (hg : g ∈ legalStages i)
    {e : ErrCode} (h : check i = some e) : phaseAfter check (g, none) i = (g, some e) := by
  rw [phaseAfter, if_pos hg, h, Option.elim]

/-- A command in the frame of 46_control R232 whose body checks what `bodyError` says. -/
theorem runBody_phase {check : Instr → Option ErrCode} {s : State} {i : Instr} {body : State → Except ErrCode State}
    {m : Mem} {d : Word}
    (hbody : body s
      = (check i).elim (.ok { s with mem := m, degraded := d, stage := (nextStage i).getD s.stage }) .error) :
    ∃ m d, s.runBody (legalStages i) body = .next (s.afterCommand (phaseAfter check (s.stage, s.err) i) m d) := by
  cases herr : s.err with
  | some e =>
    refine ⟨s.mem, s.degraded, ?_⟩
    rw [State.runBody_refused (by simp [herr]), phaseAfter, State.afterCommand, ← herr]
  | none =>
    by_cases hstage : s.stage ∈ legalStages i
    · cases hcheck : check i with
      | none =>
        refine ⟨m, d, ?_⟩
        rw [hcheck] at hbody
        rw [State.runBody_ok herr hstage hbody, phaseAfter_of_ok hstage hcheck, State.afterCommand, ← herr]
      | some e =>
        refine ⟨s.mem, s.degraded, ?_⟩
        rw [hcheck] at hbody
        rw [State.runBody_error herr hstage hbody, phaseAfter_of_error hstage hcheck]
        rfl
    · exact ⟨s.mem, s.degraded, by rw [State.runBody_illegal herr hstage, phaseAfter, if_neg hstage]; rfl⟩

/-- NOP is the command of the frame whose body keeps the state (46_control R234). -/
theorem execNop_eq_runBody (s : State) : execNop s = s.runBody (legalStages .nop) .ok := by
  by_cases herr : s.err = none
  · exact (State.runBody_ok herr (by cases s.stage <;> decide) rfl).symm
  · exact (State.runBody_refused herr _ _).symm

/-- The shape of the three bodies that can fail: two checks, then the state. -/
theorem two_checks_eq_elim (b c : Prop) [Decidable b] [Decidable c] (e f : ErrCode) (u : State) :
    (if b then .error e else if c then .error f else .ok u : Except ErrCode State)
      = (if b then some e else if c then some f else none).elim (.ok u) .error := by
  split
  · rfl
  · split <;> rfl

/-- Every command but RELEASE completes, moves the phase as the table says, and changes no register beside DEGRADED. -/
theorem execWith_phase (P : Config.Params) (s : State) {i : Instr} (hi : i ≠ .release) :
    ∃ m d, execWith P i s = .next (s.afterCommand (phaseAfter (bodyError P s) (s.stage, s.err) i) m d) := by
  cases i with
  | nop =>
    obtain ⟨m, d, h⟩ := runBody_phase (check := bodyError P s) (s := s) (i := .nop) (body := .ok) rfl
    exact ⟨m, d, (execNop_eq_runBody s).trans h⟩
  | release => exact absurd rfl hi
  | cscFwd => exact runBody_phase (body := cscFwdBody P) (two_checks_eq_elim _ _ _ _ _)
  | bembed => exact runBody_phase (body := bembedBody P) (two_checks_eq_elim _ _ _ _ _)
  | bextract => exact runBody_phase (body := bextractBody P) (two_checks_eq_elim _ _ _ _ _)
  | pad => exact runBody_phase (body := padBody) rfl
  | dwt => exact runBody_phase (body := dwtBody P) rfl
  | block => exact runBody_phase (body := blockBody) rfl
  | permgen => exact runBody_phase (body := permgenBody P) rfl
  | reasm => exact runBody_phase (body := reasmBody) rfl
  | idwt => exact runBody_phase (body := idwtBody P) rfl
  | unpad => exact runBody_phase (body := unpadBody) rfl
  | cscInv => exact runBody_phase (body := cscInvBody P) rfl
  | vote => exact runBody_phase (body := voteBody P) rfl

/-! ### Running a list of command lines -/

/-- The part of the state that no program of commands without RELEASE changes, the rest blanked. -/
def settings (s : State) : State :=
  { s with mem := [], degraded := 0#32, stage := .rgba, err := none, busy := false, pend := 0#32, host := [],
           rdata := 0#32 }

/-- The body's checks look at the settings alone. -/
theorem bodyError_congr {P : Config.Params} {s t : State} (h : settings t = settings s) :
    bodyError P t = bodyError P s :=
  (congrArg (bodyError P) h :)

theorem runWith_succ {P : Config.Params} {s u : State} (h : stepWith P s = .next u) (k : Nat) :
    runWith P (k + 1) s = runWith P k u :=
  run_succ_of_next _ h k

theorem stepWith_of_nil {P : Config.Params} {s : State} (h : s.host = []) :
    stepWith P s = s.unitTurn (execWith P) := by
  rw [stepWith, State.advance, h]

theorem stepWith_of_cons {P : Config.Params} {s : State} {turn : Turn} {rest : List Turn} (h : s.host = turn :: rest) :
    stepWith P s = State.takeTurn P (execWith P) { s with host := rest } turn := by
  rw [stepWith, State.advance, h]

theorem unitTurn_of_pending {s : State} {i : Instr} {ex : Meaning} (hbusy : s.busy = true)
    (hpend : s.pend = encode i) : s.unitTurn ex = clearBusy (ex i s) := by
  rw [State.unitTurn, if_pos hbusy, State.complete_ok (hpend ▸ decodeWord_encode i)]

/-- The state in which command i has been accepted, with the turns left and the word the host read last. -/
def accepted (s : State) (i : Instr) (turns : List Turn) (d : Word) : State :=
  { s with pend := encode i, busy := true, host := turns, rdata := d }

/-- A command line on an idle unit: the wait passes and the write is accepted (30_encoding R95). -/
theorem run_line_of_idle (P : Config.Params) {s : State} {i : Instr} {rest : List Turn} (hidle : s.busy = false)
    (hhost : s.host = cmdTurns i ++ rest) (k : Nat) :
    runWith P (k + 2) s = runWith P k (accepted s i rest s.statusWord) := by
  have hwait : stepWith P s = .next (atPort s (wr .cmd (encode i) :: rest) s.statusWord) := by
    rw [stepWith_of_cons hhost]
    exact congrArg Host.Outcome.next (State.poll_of_idle (s := { s with host := wr .cmd (encode i) :: rest }) hidle)
  have hwrite : stepWith P (atPort s (wr .cmd (encode i) :: rest) s.statusWord)
      = .next (accepted s i rest s.statusWord) := by
    rw [stepWith_of_cons rfl]
    exact congrArg Host.Outcome.next (hostWrite_cmd_of_idle P (s := atPort s rest s.statusWord) hidle (encode i))
  exact (runWith_succ hwait (k + 1)).trans (runWith_succ hwrite k)

section
variable (P : Config.Params) (s : State) {i : Instr} (hi : i ≠ .release)
include hi

/-- The completion of an accepted command. -/
theorem unitTurn_accepted (turns : List Turn) (d : Word) :
    ∃ u, (accepted s i turns d).unitTurn (execWith P) = .next u ∧ u.busy = false ∧ u.host = turns ∧
      settings u = settings s ∧ (u.stage, u.err) = phaseAfter (bodyError P s) (s.stage, s.err) i := by
  obtain ⟨m, d', hexec⟩ := execWith_phase P (accepted s i turns d) hi
  rw [bodyError_congr (show settings (accepted s i turns d) = settings s from rfl)] at hexec
  refine ⟨{ (accepted s i turns d).afterCommand (phaseAfter (bodyError P s) (s.stage, s.err) i) m d' with
    busy := false }, ?_, rfl, rfl, rfl, rfl⟩
  rw [unitTurn_of_pending (s := accepted s i turns d) rfl rfl, hexec]
  rfl

/-- While a command is pending the wait of the next line lets the unit complete it first (30_encoding R95; log 21). -/
theorem run_line_of_accepted (j : Instr) (rest : List Turn) (d : Word) :
    ∃ u, settings u = settings s ∧ (u.stage, u.err) = phaseAfter (bodyError P s) (s.stage, s.err) i ∧
      ∀ k, runWith P (k + 4) (accepted s i (cmdTurns j ++ rest) d) = runWith P k (accepted u j rest u.statusWord) := by
  have hwait : stepWith P (accepted s i (cmdTurns j ++ rest) d)
      = .next (accepted s i (.unit :: cmdTurns j ++ rest) (accepted s i [] d).statusWord) := by
    rw [stepWith_of_cons rfl]
    exact congrArg Host.Outcome.next (State.poll_of_busy (s := accepted s i (wr .cmd (encode j) :: rest) d) rfl)
  obtain ⟨u, hunit, hidle, hhost, hset, hphase⟩ :=
    unitTurn_accepted P s hi (cmdTurns j ++ rest) (accepted s i [] d).statusWord
  have hcomplete := (stepWith_of_cons
    (s := accepted s i (.unit :: cmdTurns j ++ rest) (accepted s i [] d).statusWord) rfl).trans hunit
  refine ⟨u, hset, hphase, fun k => ?_⟩
  exact (runWith_succ hwait (k + 3)).trans
    ((runWith_succ hcomplete (k + 2)).trans (run_line_of_idle P hidle hhost k))

end

/-- A list of command lines after an accepted command: it ends idle, with the phase the commands lead to. -/
theorem run_lines_of_accepted (P : Config.Params) {cs : List Instr} (hcs : .release ∉ cs) (s : State) {i : Instr}
    (hi : i ≠ .release) (d : Word) :
    ∃ t, runWith P (4 * cs.length + 1) (accepted s i (cs.flatMap cmdTurns) d) = .next t ∧ t.busy = false ∧
      t.host = [] ∧ settings t = settings s ∧
      (t.stage, t.err) = (i :: cs).foldl (phaseAfter (bodyError P s)) (s.stage, s.err) := by
  induction cs generalizing s i d with
  | nil =>
    obtain ⟨t, hunit, hend⟩ := unitTurn_accepted P s hi [] d
    exact ⟨t, runWith_succ ((stepWith_of_nil rfl).trans hunit) 0, hend⟩
  | cons j cs ih =>
    obtain ⟨hj, hcs⟩ := not_or.1 (mt List.mem_cons.2 hcs)
    obtain ⟨u, hset, hphase, hrun⟩ := run_line_of_accepted P s hi j (cs.flatMap cmdTurns) d
    obtain ⟨t, ht, hidle, hhost, hset', hphase'⟩ := ih hcs u (Ne.symm hj) u.statusWord
    refine ⟨t, (hrun _).trans ht, hidle, hhost, hset'.trans hset, ?_⟩
    rw [hphase', bodyError_congr hset, hphase]
    rfl

/-- A program of command lines on an idle unit (30_encoding R95): two turns for the first line, four for each other
one, and the completion of the last command. -/
theorem run_lines_of_idle (P : Config.Params) {s : State} {i : Instr} {cs : List Instr} (hcs : .release ∉ i :: cs)
    (hidle : s.busy = false) (hhost : s.host = (i :: cs).flatMap cmdTurns) :
    ∃ t, runWith P (4 * cs.length + 3) s = .next t ∧ t.busy = false ∧ t.host = [] ∧ settings t = settings s ∧
      (t.stage, t.err) = (i :: cs).foldl (phaseAfter (bodyError P s)) (s.stage, s.err) := by
  obtain ⟨hi, hcs⟩ := not_or.1 (mt List.mem_cons.2 hcs)
  obtain ⟨t, ht, hend⟩ := run_lines_of_accepted P hcs s (Ne.symm hi) s.statusWord
  exact ⟨t, (run_line_of_idle P hidle hhost _).trans ht, hend⟩

/-! ### EMBED and EXTRACT -/

/-- After a recorded error every command is refused (60_exceptions R254). -/
theorem foldl_phaseAfter_of_error (check : Instr → Option ErrCode) (g : Stage) (e : ErrCode) (cs : List Instr) :
    cs.foldl (phaseAfter check) (g, some e) = (g, some e) := by
  induction cs with
  | nil => rfl
  | cons i cs ih => exact ih

/-- The commands EMBED and EXTRACT begin with (30_encoding R97, R98). -/
def forwardCommands : List Instr := [.cscFwd, .pad, .dwt, .block, .permgen]

section
variable {P : Config.Params} {s : State}

/-- If CSC_FWD fails the run stays in stage 0. -/
theorem foldl_forward_of_error {e : ErrCode} (h : bodyError P s .cscFwd = some e) (cs : List Instr) :
    (forwardCommands ++ cs).foldl (phaseAfter (bodyError P s)) (.rgba, none) = (.rgba, some e) := by
  have hfirst : phaseAfter (bodyError P s) (.rgba, none) .cscFwd = (.rgba, some e) :=
    phaseAfter_of_error (by decide) h
  rw [forwardCommands, List.cons_append, List.foldl_cons, hfirst, foldl_phaseAfter_of_error]

/-- If CSC_FWD does not fail the run reaches stage 5. -/
theorem foldl_forward_of_ok (h : bodyError P s .cscFwd = none) (cs : List Instr) :
    (forwardCommands ++ cs).foldl (phaseAfter (bodyError P s)) (.rgba, none)
      = cs.foldl (phaseAfter (bodyError P s)) (.mapped, none) := by
  have hfirst : phaseAfter (bodyError P s) (.rgba, none) .cscFwd = (.ycbcr, none) := phaseAfter_of_ok (by decide) h
  rw [forwardCommands, List.cons_append, List.foldl_cons, hfirst]
  rfl

/-- A program that goes forward to stage 5 and then runs command i, which may fail, and commands that do not. -/
theorem run_program {i : Instr} {cs : List Instr} {g : Stage} (hcs : .release ∉ forwardCommands ++ i :: cs)
    (hlegal : .mapped ∈ legalStages i)
    (hend : cs.foldl (phaseAfter (bodyError P s)) ((nextStage i).getD .mapped, none) = (g, none))
    (hidle : s.busy = false) (herr : s.err = none) (hstage : s.stage = .rgba)
    (hhost : s.host = (forwardCommands ++ i :: cs).flatMap cmdTurns) :
    ∃ t, runWith P (4 * cs.length + 23) s = .next t ∧ t.busy = false ∧ t.host = [] ∧ t.acc = s.acc ∧
      t.ovr = s.ovr ∧ t.height = s.height ∧ t.width = s.width ∧
      if bodyError P s .cscFwd = none then
        (if bodyError P s i = none then t.stage = g ∧ t.err = none else t.stage = .mapped ∧ t.err ≠ none)
      else t.stage = .rgba ∧ t.err ≠ none := by
  obtain ⟨t, hrun, htidle, hthost, hset, hlast⟩ := run_lines_of_idle P hcs hidle hhost
  have hphase : (t.stage, t.err) = (forwardCommands ++ i :: cs).foldl (phaseAfter (bodyError P s)) (.rgba, none) := by
    rw [← hstage, ← herr]
    exact hlast
  refine ⟨t, hrun, htidle, hthost, (congrArg State.acc hset :), (congrArg State.ovr hset :),
    (congrArg State.height hset :), (congrArg State.width hset :), ?_⟩
  cases hfwd : bodyError P s .cscFwd with
  | some e =>
    rw [foldl_forward_of_error hfwd, Prod.mk.injEq] at hphase
    obtain ⟨htstage, hterr⟩ := hphase
    simp [htstage, hterr]
  | none =>
    rw [foldl_forward_of_ok hfwd, List.foldl_cons] at hphase
    cases hcheck : bodyError P s i with
    | some e =>
      rw [phaseAfter_of_error hlegal hcheck, foldl_phaseAfter_of_error, Prod.mk.injEq] at hphase
      obtain ⟨htstage, hterr⟩ := hphase
      simp [htstage, hterr]
    | none =>
      rw [phaseAfter_of_ok hlegal hcheck, hend, Prod.mk.injEq] at hphase
      obtain ⟨htstage, hterr⟩ := hphase
      simp [htstage, hterr]

/-! The checks as the statements write them (40_colour_pad R110, 43_block_codec R170, R171). -/

theorem bodyError_cscFwd_eq_none_iff : bodyError P s .cscFwd = none ↔ (s.configOk && s.dimsOk P) = true := by
  cases hconfig : s.configOk <;> cases hdims : s.dimsOk P <;> simp [bodyError, hconfig, hdims]

theorem bodyError_bembed_eq_none_iff :
    bodyError P s .bembed = none ↔ (s.wmLenOk P && decide (s.wmLen.toNat ≤ s.nblocks)) = true := by
  have hlen : s.wmLenN = s.wmLen.toNat := rfl
  cases hok : s.wmLenOk P <;> simp [bodyError, hok, hlen]

theorem bodyError_bextract_eq_none_iff :
    bodyError P s .bextract = none ↔ (s.wmLenOk P && decide (0 < s.nblocks)) = true := by
  cases hok : s.wmLenOk P <;> simp [bodyError, hok, Nat.pos_iff_ne_zero]

end

/-- Settles O56: after CSC_FWD only BEMBED can fail, and the four commands after it lead to stage 10. -/
theorem embedProgramRunsToItsEnd : Obligations.EmbedProgramRunsToItsEnd := by
  intro P s hidle herr hstage hhost
  have h := run_program (P := P) (i := .bembed) (cs := [.reasm, .idwt, .unpad, .cscInv]) (g := .rgbaOut) (by decide)
    (by decide) rfl hidle herr hstage hhost
  simp only [bodyError_cscFwd_eq_none_iff, bodyError_bembed_eq_none_iff] at h
  exact h

/-- Settles O57: after CSC_FWD only BEXTRACT can fail, and VOTE leads to stage 12. -/
theorem extractProgramRunsToItsEnd : Obligations.ExtractProgramRunsToItsEnd := by
  intro P s hidle herr hstage hhost
  have h := run_program (P := P) (i := .bextract) (cs := [.vote]) (g := .decoded) (by decide) (by decide) rfl hidle
    herr hstage hhost
  simp only [bodyError_cscFwd_eq_none_iff, bodyError_bextract_eq_none_iff] at h
  exact h

end Sys2Proof.Machine
end

section
/-! PROOFS. The colour converter and the padder (40_colour_pad R110 to R116): what a command does when its checks pass,
the checks of CSC_FWD, the cells CSC_FWD, CSC_INV and PAD write, and the exact inverse of the colour conversion. -/

namespace Sys2Proof.Machine

open Sys2Proof

/-! ### A command that runs -/

/-- A command that is legal in the stage and whose own checks pass completes (46_control R232): the converse of the
last case of `exec_cases`. -/
theorem exec_of_bodyAccepts {s : State} {i : Instr} (herr : s.err = none) (hstage : s.stage ∈ legalStages i)
    (haccept : bodyAccepts s i) : exec i s = .next (commandResult s i) := by
  cases i with
  | nop => exact haccept.elim
  | release => exact haccept.elim
  | cscFwd =>
    obtain ⟨hconfig, hdims⟩ := haccept
    exact State.runBody_ok herr hstage (by rw [cscFwdBody, hconfig, hdims]; rfl)
  | bembed =>
    obtain ⟨hlen, hcap⟩ := haccept
    exact State.runBody_ok herr hstage (by rw [bembedBody, hlen, if_neg hcap.not_gt]; rfl)
  | bextract =>
    obtain ⟨hlen, hblocks⟩ := haccept
    have hsome : (s.nblocks == 0) = false := beq_false_of_ne hblocks.ne'
    exact State.runBody_ok herr hstage (by rw [bextractBody, hlen, hsome]; rfl)
  | pad => exact State.runBody_ok (body := padBody) herr hstage rfl
  | dwt => exact State.runBody_ok (body := dwtBody params) herr hstage rfl
  | block => exact State.runBody_ok (body := blockBody) herr hstage rfl
  | permgen => exact State.runBody_ok (body := permgenBody params) herr hstage rfl
  | reasm => exact State.runBody_ok (body := reasmBody) herr hstage rfl
  | idwt => exact State.runBody_ok (body := idwtBody params) herr hstage rfl
  | unpad => exact State.runBody_ok (body := unpadBody) herr hstage rfl
  | cscInv => exact State.runBody_ok (body := cscInvBody params) herr hstage rfl
  | vote => exact State.runBody_ok (body := voteBody params) herr hstage rfl

/-- A command that runs changes no register beside STAGE and DEGRADED (46_control R236). -/
theorem sameRegisters_commandResult (s : State) (i : Instr) : Safety.sameRegisters s (commandResult s i) := rfl

/-! ### The checks of CSC_FWD -/

section
variable {s : State}

theorem State.configOk_iff :
    s.configOk = true ↔ ¬ (s.strength1 = 0#16 ∨ (s.mode.getLsbD 1 = true ∧ s.strength2 = 0#16)) := by
  simp [State.configOk, State.s1, State.s2, State.s2en, BitVec.toNat_eq, imp_iff_not_or]

theorem State.dimsOk_params_iff :
    s.dimsOk params = true ↔ ¬ (s.height = 0#16 ∨ s.width = 0#16 ∨ params.maxDim < s.height.toNat ∨
      params.maxDim < s.width.toNat) := by
  rw [State.dimsOk_iff]
  simp [State.rows, State.cols, BitVec.toNat_eq]

variable (herr : s.err = none) (hstage : s.stage = .rgba)
include herr hstage

/-- A strength of 0 is E_CONFIG, whatever the dimensions (40_colour_pad R110). -/
theorem exec_cscFwd_of_not_configOk (hconfig : ¬ s.configOk = true) :
    exec .cscFwd s = .next { s with err := some .config } :=
  State.runBody_error herr (List.mem_singleton.2 hstage) (by simp [cscFwdBody, hconfig])

/-- With the strengths right, wrong dimensions are E_DIM (40_colour_pad R110). -/
theorem exec_cscFwd_of_not_dimsOk (hconfig : s.configOk = true) (hdims : ¬ s.dimsOk params = true) :
    exec .cscFwd s = .next { s with err := some .dim } :=
  State.runBody_error herr (List.mem_singleton.2 hstage) (by simp [cscFwdBody, hconfig, hdims])

end

/-- Settles O23: the check of the strengths comes first, and each check that fails records its code alone. -/
theorem cscFwdChecksConfigThenDimensions : Obligations.CscFwdChecksConfigThenDimensions := by
  intro s herr hstage
  refine ⟨fun hbad => ?_, fun hgood hbad => ?_⟩
  · exact exec_cscFwd_of_not_configOk herr hstage fun hconfig => State.configOk_iff.1 hconfig hbad
  · exact exec_cscFwd_of_not_dimsOk herr hstage (State.configOk_iff.2 hgood) fun hdims =>
      State.dimsOk_params_iff.1 hdims hbad

/-! ### CSC_FWD and CSC_INV -/

section
variable {s : State}

/-- The cells both conversions write: the image in P0, P1 and P2. -/
theorem mem_rect_colourPlanes_iff {sp : Space} {a : Nat} :
    (sp, a) ∈ rect colourPlanes s.rows s.cols ↔
      (sp = .plane 0 ∨ sp = .plane 1 ∨ sp = .plane 2) ∧ rowOf a < s.height.toNat ∧ colOf a < s.width.toNat := by
  rw [mem_rect_iff_inRect s.cols_lt.le, inRect_iff, colourPlanes]
  simp [State.rows, State.cols]

variable {i : Instr} {f : Triple Word → Triple Word}
  (hwrites : commandWrites s i = (rect colourPlanes s.rows s.cols, fun sp a => (f (s.pixel a)).ofPlane sp))
include hwrites

/-- A command that converts pixel by pixel puts the converted pixel in the place of every pixel of the image. -/
theorem pixel_commandResult {r c : Nat} (hr : r < s.height.toNat) (hc : c < s.width.toNat) :
    (commandResult s i).pixel (rc r c) = f (s.pixel (rc r c)) := by
  have hcell : ∀ sp ∈ colourPlanes,
      (commandResult s i).cell sp (rc r c) = sp.fit ((f (s.pixel (rc r c))).ofPlane sp) := fun sp hsp => by
    rw [cell_commandResult, hwrites]
    exact if_pos (mem_rect.2 ⟨hsp, r, c, hr, hc, rfl⟩)
  rw [State.pixel, hcell (.plane 0) (by decide), hcell (.plane 1) (by decide), hcell (.plane 2) (by decide)]
  rfl

/-- Such a command leaves every cell outside the image of P0, P1 and P2. -/
theorem cell_commandResult_of_outside_image (sp : Space) (a : Nat)
    (hout : ¬ ((sp = .plane 0 ∨ sp = .plane 1 ∨ sp = .plane 2) ∧ rowOf a < s.height.toNat ∧
      colOf a < s.width.toNat)) : (commandResult s i).cell sp a = s.cell sp a := by
  rw [cell_commandResult, hwrites, if_neg (mt mem_rect_colourPlanes_iff.1 hout)]

end

/-- Settles O27: both checks pass, and each written cell is the field of `cscFwdPixel` its plane holds. -/
theorem cscFwdConvertsEveryPixel : Obligations.CscFwdConvertsEveryPixel := by
  intro s herr hstage hs1 hs2 hh hw hhmax hwmax
  have hconfig : s.configOk = true := State.configOk_iff.2 (by tauto)
  have hdims : s.dimsOk params = true := State.dimsOk_params_iff.2 (by simp [hh, hw, hhmax, hwmax])
  refine ⟨commandResult s .cscFwd, exec_of_bodyAccepts herr (List.mem_singleton.2 hstage) ⟨hconfig, hdims⟩,
    sameRegisters_commandResult s _, rfl, rfl, fun r c hr hc => ?_, cell_commandResult_of_outside_image rfl⟩
  have hpixel := pixel_commandResult (i := .cscFwd) rfl hr hc
  exact ⟨congrArg Triple.x hpixel, congrArg Triple.y hpixel, congrArg Triple.z hpixel⟩

/-- Settles O28: CSC_INV has no check of its own, and each written cell is the field of `cscInvPixel` its plane holds. -/
theorem cscInvConvertsEveryPixelBack : Obligations.CscInvConvertsEveryPixelBack := by
  intro s herr hstage
  have hlegal : s.stage ∈ legalStages .cscInv := by simpa [legalStages] using hstage
  refine ⟨commandResult s .cscInv, exec_of_bodyAccepts herr hlegal trivial, sameRegisters_commandResult s _, rfl, rfl,
    fun r c hr hc => ?_, cell_commandResult_of_outside_image rfl⟩
  have hpixel := pixel_commandResult (i := .cscInv) rfl hr hc
  exact ⟨congrArg Triple.x hpixel, congrArg Triple.y hpixel, congrArg Triple.z hpixel⟩

/-- Settles O36: Cb and Cr give B and R back, and what is left of Y is KG * G (40_colour_pad R111, R113). -/
theorem colourConversionInvertsExactly : Obligations.ColourConversionInvertsExactly := by
  rintro K ⟨R, G, B⟩ ⟨-, hkg, hdb, hdr⟩
  have hback : ∀ {d : Rat}, d ≠ 0 → ∀ x y, y + d * ((x - y) / d) = x := fun hd x y => by
    rw [mul_div_cancel₀ _ hd, add_sub_cancel]
  have hgreen : (K.kr * R + K.kg * G + K.kb * B - K.kr * R - K.kb * B) / K.kg = G := by
    rw [div_eq_iff hkg]
    ring
  simp only [cscInvPixel, cscFwdPixel, exactArith, hback hdr, hback hdb, hgreen]

/-! ### PAD and UNPAD -/

theorem exec_pad {s : State} (herr : s.err = none) (hstage : s.stage = .ycbcr) :
    exec .pad s = .next (commandResult s .pad) :=
  exec_of_bodyAccepts herr (List.mem_singleton.2 hstage) trivial

/-- A cell PAD writes holds +0.0 afterwards (40_colour_pad R114). -/
theorem cell_pad_of_mem {s : State} {k : Fin 4} {a : Nat} (h : (.plane k, a) ∈ s.padRow ++ s.padCol) :
    (commandResult s .pad).cell (.plane k) a = 0x00000000#32 :=
  (cell_commandResult s .pad _ _).trans (if_pos h)

theorem mem_allPlanes_iff {sp : Space} : sp ∈ allPlanes ↔ ∃ k, sp = .plane k := by
  have hplanes : ∀ k : Fin 4, .plane k ∈ allPlanes := by decide
  have hspaces : ∀ sp ∈ allPlanes, ∃ k, sp = .plane k := by decide
  exact ⟨hspaces sp, fun ⟨k, hk⟩ => hk ▸ hplanes k⟩

/-- Settles O29: PAD writes the padding row and the padding column, and their cells alone. -/
theorem padWritesThePaddingCells : Obligations.PadWritesThePaddingCells := by
  intro s herr hstage
  refine ⟨commandResult s .pad, exec_pad herr hstage, sameRegisters_commandResult s _, rfl, rfl,
    fun k c hodd hc => ?_, fun k r hodd hr => ?_, fun sp a hout => exec_cell_of_not_mem (exec_pad herr hstage) ?_⟩
  · exact cell_pad_of_mem (mem_padRow_append_padCol.2 ⟨mem_allPlanes_iff.2 ⟨k, rfl⟩, .inl ⟨hodd, c, hc, rfl⟩⟩)
  · exact cell_pad_of_mem (mem_padRow_append_padCol.2 ⟨mem_allPlanes_iff.2 ⟨k, rfl⟩, .inr ⟨hodd, r, hr, rfl⟩⟩)
  · intro hmem
    obtain ⟨hsp, hcell⟩ := mem_padRow_append_padCol.1 hmem
    obtain ⟨k, rfl⟩ := mem_allPlanes_iff.1 hsp
    refine hout ⟨k, rfl, ?_⟩
    rcases hcell with ⟨hodd, c, hc, rfl⟩ | ⟨hodd, r, hr, rfl⟩
    · have hc' : c < 65536 := hc.trans_le s.pw_le
      exact .inl ⟨hodd, rowOf_rc hc', by rwa [colOf_rc hc']⟩
    · exact .inr ⟨hodd, colOf_rc s.cols_lt, by rwa [rowOf_rc s.cols_lt]⟩

/-- Settles O30: UNPAD is legal in both stages and lists no cell. -/
theorem unpadChangesOnlyTheStage : Obligations.UnpadChangesOnlyTheStage := by
  intro s herr hstage
  have hlegal : s.stage ∈ legalStages .unpad := by simpa [legalStages] using hstage
  exact exec_of_bodyAccepts herr hlegal trivial

/-- Settles O31: PAD leads to a stage in which UNPAD is legal and writes no cell of the image; UNPAD writes no cell. -/
theorem padThenUnpadRestoresThePlanes : Obligations.PadThenUnpadRestoresThePlanes := by
  intro s herr hstage
  have hpad := exec_pad herr hstage
  have hunpad := unpadChangesOnlyTheStage (commandResult s .pad) herr (.inl rfl)
  refine ⟨_, _, hpad, hunpad, rfl, fun k r c hr hc => ?_⟩
  calc _ = (commandResult s .pad).cell (.plane k) (rc r c) := exec_cell_of_not_mem hunpad List.not_mem_nil
    _ = s.cell (.plane k) (rc r c) := exec_cell_of_not_mem hpad (image_not_mem_padding hr hc)

end Sys2Proof.Machine
end

section
/-! PROOFS. The wavelet stage (41_wavelet R130 to R133): the bank is its own inverse over the rationals, DWT puts the
filtered neighbourhood of every output cell in its four bands, and IDWT the filtered bands in their neighbourhood. -/

namespace Sys2Proof.Machine

open Sys2Proof

/-! ### The filter bank -/

/-- The matrix of the taps squares to the identity (41_wavelet R132): in each of the four sums of sums one input is
counted four times, the other three cancel, and the two halvings take the 4 away. -/
theorem haar_involutive : Function.Involutive (haar exactArith) := by
  rintro ⟨a, b, d, e⟩
  have htwo : Arith.two exactArith = (2 : Rat) := by norm_num [Arith.two, exactArith]
  simp only [haar, htwo, Quad.mk.injEq]
  simp only [exactArith]
  refine ⟨?_, ?_, ?_, ?_⟩ <;> ring

/-- Settles O35: both banks are `haar`, which is its own inverse. -/
theorem haarBankInvertsExactly : Obligations.HaarBankInvertsExactly := haar_involutive

section
variable {s : State} {ch : Ch} {i j : Nat}

/-! ### DWT -/

theorem mem_subPlanes_iff {sp : Space} : sp ∈ subPlanes ↔ ∃ ch b, sp = .sub ch b := by
  have hbands : ∀ ch : Ch, .sub ch .ll ∈ subPlanes ∧ .sub ch .hl ∈ subPlanes ∧ .sub ch .lh ∈ subPlanes ∧
      .sub ch .hh ∈ subPlanes := by decide
  have hspaces : ∀ sq ∈ subPlanes, ∃ ch b, sq = .sub ch b := by simp [subPlanes]
  refine ⟨hspaces sp, ?_⟩
  rintro ⟨ch, b, rfl⟩
  obtain ⟨hll, hhl, hlh, hhh⟩ := hbands ch
  cases b with
  | ll => exact hll
  | hl => exact hhl
  | lh => exact hlh
  | hh => exact hhh

/-- The cells DWT writes: of a subband, inside LLR x LLC (41_wavelet R130). -/
theorem mem_rect_subPlanes_iff {sp : Space} {a : Nat} :
    (sp, a) ∈ rect subPlanes s.llr s.llc ↔ ∃ ch b, sp = .sub ch b ∧ rowOf a < s.llr ∧ colOf a < s.llc := by
  rw [mem_rect_iff_inRect s.llc_le, inRect_iff, mem_subPlanes_iff]
  simp only [exists_and_right]

theorem cell_dwt (b : Band) (hi : i < s.llr) (hj : j < s.llc) :
    (commandResult s .dwt).cell (.sub ch b) (rc i j) = (haarAnalysis params.num (s.hood ch i j)).ofBand b := by
  have hmem : (.sub ch b, rc i j) ∈ rect subPlanes s.llr s.llc :=
    mem_rect.2 ⟨mem_subPlanes_iff.2 ⟨ch, b, rfl⟩, i, j, hi, hj, rfl⟩
  have hj' : j < 65536 := hj.trans_le s.llc_le
  calc _ = dwtCell params s (.sub ch b) (rc i j) := (cell_commandResult s .dwt _ _).trans (if_pos hmem)
    _ = _ := by rw [dwtCell, rowOf_rc hj', colOf_rc hj']

/-- DWT puts the analysis of every neighbourhood in the bands of its channel. -/
theorem bands_dwt (hi : i < s.llr) (hj : j < s.llc) :
    (commandResult s .dwt).bands ch i j = haarAnalysis params.num (s.hood ch i j) := by
  rw [State.bands, cell_dwt .ll hi hj, cell_dwt .hl hi hj, cell_dwt .lh hi hj, cell_dwt .hh hi hj]
  rfl

/-! ### IDWT -/

theorem planeOf_mem_channelPlanes : ∀ ch : Ch, planeOf ch ∈ channelPlanes := by decide

/-- The cells IDWT writes: of P0, P1 or P2, inside PH x PW (41_wavelet R131). -/
theorem mem_rect_channelPlanes_iff {sp : Space} {a : Nat} :
    (sp, a) ∈ rect channelPlanes s.ph s.pw ↔
      (sp = .plane 0 ∨ sp = .plane 1 ∨ sp = .plane 2) ∧ rowOf a < s.ph ∧ colOf a < s.pw := by
  rw [mem_rect_iff_inRect s.pw_le, inRect_iff]
  simp [channelPlanes]

/-- The three arms of `idwtCell` are one formula in the channel. -/
theorem idwtCell_planeOf (P : Config.Params) (a : Nat) :
    idwtCell P s (planeOf ch) a
      = (haarSynthesis P.num (s.bands ch (rowOf a / 2) (colOf a / 2))).ofParity (rowOf a) (colOf a) := by
  fin_cases ch <;> rfl

/-- A cell of neighbourhood [i,j] after IDWT, by its place [p,q] in the neighbourhood. -/
theorem cell_idwt (hi : i < s.llr) (hj : j < s.llc) {p q : Nat} (hp : p < 2) (hq : q < 2) :
    (commandResult s .idwt).cell (planeOf ch) (rc (2 * i + p) (2 * j + q))
      = (haarSynthesis params.num (s.bands ch i j)).ofParity p q := by
  have hrow : 2 * i + p < s.ph := by unfold State.llr at hi; omega
  have hcol : 2 * j + q < s.pw := by unfold State.llc at hj; omega
  have hcol' : 2 * j + q < 65536 := hcol.trans_le s.pw_le
  have hmem : (planeOf ch, rc (2 * i + p) (2 * j + q)) ∈ rect channelPlanes s.ph s.pw :=
    mem_rect.2 ⟨planeOf_mem_channelPlanes ch, _, _, hrow, hcol, rfl⟩
  have hi' : (2 * i + p) / 2 = i := by omega
  have hj' : (2 * j + q) / 2 = j := by omega
  calc _ = idwtCell params s (planeOf ch) (rc (2 * i + p) (2 * j + q)) :=
        (cell_commandResult s .idwt _ _).trans (if_pos hmem)
    _ = (haarSynthesis params.num (s.bands ch i j)).ofParity (2 * i + p) (2 * j + q) := by
        rw [idwtCell_planeOf, rowOf_rc hcol', colOf_rc hcol', hi', hj']
    _ = _ := by simp only [Quad.ofParity, Nat.mul_add_mod]

/-- IDWT puts the synthesis of the bands of a channel in every neighbourhood. -/
theorem hood_idwt (hi : i < s.llr) (hj : j < s.llc) :
    (commandResult s .idwt).hood ch i j = haarSynthesis params.num (s.bands ch i j) := by
  have hcell (p q : Fin 2) := cell_idwt (ch := ch) hi hj p.isLt q.isLt
  have h00 := hcell 0 0
  have h01 := hcell 0 1
  have h10 := hcell 1 0
  have h11 := hcell 1 1
  simp only [Fin.val_zero, Fin.val_one, Nat.add_zero] at h00 h01 h10 h11
  rw [State.hood, h00, h01, h10, h11]
  rfl

end

/-- Settles O33: DWT has no check of its own, and the four cells are the fields of the analysed neighbourhood. -/
theorem dwtFiltersEveryNeighbourhood : Obligations.DwtFiltersEveryNeighbourhood := by
  intro s herr hstage
  have hexec : exec .dwt s = .next (commandResult s .dwt) :=
    exec_of_bodyAccepts herr (List.mem_singleton.2 hstage) trivial
  refine ⟨_, hexec, sameRegisters_commandResult s _, rfl, rfl, fun ch i j hi hj => ?_, fun sp a hout =>
    exec_cell_of_not_mem hexec fun hmem => hout (mem_rect_subPlanes_iff.1 hmem)⟩
  have hbands := bands_dwt (ch := ch) hi hj
  exact ⟨congrArg Quad.q0 hbands, congrArg Quad.q1 hbands, congrArg Quad.q2 hbands, congrArg Quad.q3 hbands⟩

/-- Settles O34: IDWT is legal in both stages, and the four cells are the fields of the synthesised bands. -/
theorem idwtRebuildsEveryNeighbourhood : Obligations.IdwtRebuildsEveryNeighbourhood := by
  intro s herr hstage
  have hlegal : s.stage ∈ legalStages .idwt := by simpa [legalStages] using hstage
  have hexec : exec .idwt s = .next (commandResult s .idwt) := exec_of_bodyAccepts herr hlegal trivial
  refine ⟨_, hexec, sameRegisters_commandResult s _, rfl, rfl, fun ch i j hi hj => ?_, fun sp a hout =>
    exec_cell_of_not_mem hexec fun hmem => hout (mem_rect_channelPlanes_iff.1 hmem)⟩
  have hhood := hood_idwt (ch := ch) hi hj
  exact ⟨congrArg Quad.q0 hhood, congrArg Quad.q1 hhood, congrArg Quad.q2 hhood, congrArg Quad.q3 hhood⟩

end Sys2Proof.Machine
end

section
/-! PROOFS. The blocker (42_blocker R145 to R148): blocks and tiles correspond cell by cell, BLOCK copies the tiles to
the blocks, REASM copies them back, and the one after the other restores the subbands. -/

namespace Sys2Proof.Machine

open Sys2Proof

/-! ### Blocks and tiles -/

section
variable {i u v : Nat}

theorem blkAt_lt {n : Nat} (hi : i < n) (hu : u < 4) (hv : v < 4) : blkAt i u v < 16 * n := by
  unfold blkAt
  omega

variable {s : State} {ch : Ch}

/-- The block row and the block column of a block are inside BROWS x BCOLS (42_blocker R145). -/
theorem blockPlace_lt (hi : i < s.nblocks) : i / s.bcols < s.brows ∧ i % s.bcols < s.bcols := by
  have hcols : 0 < s.bcols := Nat.pos_of_mul_pos_left (hi.trans_le' i.zero_le)
  exact ⟨(Nat.div_lt_iff_lt_mul hcols).2 hi, Nat.mod_lt i hcols⟩

theorem State.blocked_cols_le_65536 (s : State) : 4 * s.bcols ≤ 65536 := s.blocked_cols_le.trans s.llc_le

/-- The row and the column of a cell of a tile. -/
theorem rowOf_colOf_tileCell (hi : i < s.nblocks) (hv : v < 4) :
    rowOf (tileCell s.bcols i u v) = 4 * (i / s.bcols) + u ∧
      colOf (tileCell s.bcols i u v) = 4 * (i % s.bcols) + v := by
  obtain ⟨-, hcol⟩ := blockPlace_lt hi
  have hcols := s.blocked_cols_le_65536
  have hlt : 4 * (i % s.bcols) + v < 65536 := by omega
  exact ⟨rowOf_rc hlt, colOf_rc hlt⟩

/-- The blocked part of LL is covered by the tiles (42_blocker R145). -/
theorem exists_tileCell_eq {a : Nat} (hr : rowOf a < 4 * s.brows) (hc : colOf a < 4 * s.bcols) :
    ∃ i u v, i < s.nblocks ∧ u < 4 ∧ v < 4 ∧ tileCell s.bcols i u v = a := by
  have hrow : rowOf a / 4 < s.brows := Nat.div_lt_of_lt_mul hr
  have hcol : colOf a / 4 < s.bcols := Nat.div_lt_of_lt_mul hc
  obtain ⟨hdiv, hmod⟩ := (Nat.div_mod_unique (a := tileOf s.bcols (rowOf a) (colOf a)) (Nat.zero_lt_of_lt hcol)).2
    ⟨by rw [tileOf, Config.bs, Nat.add_comm, Nat.mul_comm], hcol⟩
  refine ⟨tileOf s.bcols (rowOf a) (colOf a), rowOf a % 4, colOf a % 4, ?_, Nat.mod_lt _ (by decide),
    Nat.mod_lt _ (by decide), ?_⟩
  · rw [tileOf, Nat.mul_comm]
    exact Nat.mul_add_lt_mul_of_lt_of_lt hrow hcol
  · rw [tileCell, hdiv, hmod, Config.bs, Nat.div_add_mod, Nat.div_add_mod, rc_rowOf_colOf]

/-! ### BLOCK -/

theorem mem_blkSpaces_iff {sp : Space} : sp ∈ blkSpaces ↔ ∃ ch, sp = .blk ch := by
  have hblocks : ∀ ch : Ch, .blk ch ∈ blkSpaces := by decide
  have hspaces : ∀ sp ∈ blkSpaces, ∃ ch, sp = .blk ch := by decide
  exact ⟨hspaces sp, fun ⟨ch, hch⟩ => hch ▸ hblocks ch⟩

/-- The cells BLOCK writes: of a block memory, below 16 * NBLOCKS (42_blocker R146). -/
theorem mem_linear_blkSpaces_iff {sp : Space} {a n : Nat} :
    (sp, a) ∈ linear blkSpaces n ↔ ∃ ch, sp = .blk ch ∧ a < n := by
  rw [mem_linear, mem_blkSpaces_iff, exists_and_right]

theorem blockCell_blkAt (hu : u < 4) (hv : v < 4) :
    blockCell s (.blk ch) (blkAt i u v) = s.cell (.sub ch .ll) (tileCell s.bcols i u v) := by
  have hblock : blkAt i u v / 16 = i := by unfold blkAt; omega
  have hrow : blkAt i u v % 16 / 4 = u := by unfold blkAt; omega
  have hcol : blkAt i u v % 4 = v := by unfold blkAt; omega
  rw [blockCell, hblock, hrow, hcol]

/-- BLOCK puts every cell of a tile at its place in the block. -/
theorem cell_block (hi : i < s.nblocks) (hu : u < 4) (hv : v < 4) :
    (commandResult s .block).cell (.blk ch) (blkAt i u v) = s.cell (.sub ch .ll) (tileCell s.bcols i u v) := by
  have hmem : (.blk ch, blkAt i u v) ∈ linear blkSpaces (16 * s.nblocks) :=
    mem_linear_blkSpaces_iff.2 ⟨ch, rfl, blkAt_lt hi hu hv⟩
  calc _ = blockCell s (.blk ch) (blkAt i u v) := (cell_commandResult s .block _ _).trans (if_pos hmem)
    _ = _ := blockCell_blkAt hu hv

theorem exec_block (herr : s.err = none) (hstage : s.stage = .subbands) :
    exec .block s = .next (commandResult s .block) :=
  exec_of_bodyAccepts herr (List.mem_singleton.2 hstage) trivial

/-! ### REASM -/

theorem mem_llPlanes_iff {sp : Space} : sp ∈ llPlanes ↔ ∃ ch, sp = .sub ch .ll := by
  have hplanes : ∀ ch : Ch, .sub ch .ll ∈ llPlanes := by decide
  have hspaces : ∀ sp ∈ llPlanes, ∃ ch, sp = .sub ch .ll := by decide
  exact ⟨hspaces sp, fun ⟨ch, hch⟩ => hch ▸ hplanes ch⟩

/-- The cells REASM writes: of an LL, in its blocked part (42_blocker R147, R148). -/
theorem mem_rect_llPlanes_iff {sp : Space} {a : Nat} :
    (sp, a) ∈ rect llPlanes (4 * s.brows) (4 * s.bcols) ↔
      ∃ ch, sp = .sub ch .ll ∧ rowOf a < 4 * s.brows ∧ colOf a < 4 * s.bcols := by
  rw [mem_rect_iff_inRect s.blocked_cols_le_65536, inRect_iff, mem_llPlanes_iff, exists_and_right]

theorem reasmCell_tileCell (hi : i < s.nblocks) (hu : u < 4) (hv : v < 4) :
    reasmCell s (.sub ch .ll) (tileCell s.bcols i u v) = s.cell (.blk ch) (blkAt i u v) := by
  obtain ⟨hrow, hcol⟩ := rowOf_colOf_tileCell (u := u) hi hv
  have hdiv (n : Nat) {w : Nat} (hw : w < 4) : (4 * n + w) / 4 = n := by omega
  have hmod (n : Nat) {w : Nat} (hw : w < 4) : (4 * n + w) % 4 = w := by omega
  rw [reasmCell, hrow, hcol, tileOf, Config.bs, hdiv _ hu, hdiv _ hv, hmod _ hu, hmod _ hv, Nat.div_add_mod']

/-- REASM puts every cell of a block at its place in the tile. -/
theorem cell_reasm (hi : i < s.nblocks) (hu : u < 4) (hv : v < 4) :
    (commandResult s .reasm).cell (.sub ch .ll) (tileCell s.bcols i u v) = s.cell (.blk ch) (blkAt i u v) := by
  obtain ⟨hrow, hcol⟩ := rowOf_colOf_tileCell (u := u) hi hv
  obtain ⟨hbrow, hbcol⟩ := blockPlace_lt hi
  have hmem : (.sub ch .ll, tileCell s.bcols i u v) ∈ rect llPlanes (4 * s.brows) (4 * s.bcols) :=
    mem_rect_llPlanes_iff.2 ⟨ch, rfl, by omega, by omega⟩
  calc _ = reasmCell s (.sub ch .ll) (tileCell s.bcols i u v) :=
        (cell_commandResult s .reasm _ _).trans (if_pos hmem)
    _ = _ := reasmCell_tileCell hi hu hv

theorem exec_reasm (herr : s.err = none) (hstage : s.stage = .blocked ∨ s.stage = .mapped ∨ s.stage = .embedded) :
    exec .reasm s = .next (commandResult s .reasm) :=
  exec_of_bodyAccepts herr (by simpa [legalStages] using hstage) trivial

end

/-- Settles O37: BLOCK has no check of its own, and writes the cells of the blocks alone. -/
theorem blockCopiesEveryTile : Obligations.BlockCopiesEveryTile := by
  intro s herr hstage
  have hblock := exec_block herr hstage
  exact ⟨_, hblock, sameRegisters_commandResult s _, rfl, rfl, fun ch i u v => cell_block, fun sp a hout =>
    exec_cell_of_not_mem hblock fun hmem => hout (mem_linear_blkSpaces_iff.1 hmem)⟩

/-- Settles O38: REASM is legal in the three stages, and writes the cells of the tiles alone. -/
theorem reasmWritesEveryTileBack : Obligations.ReasmWritesEveryTileBack := by
  intro s herr hstage
  have hreasm := exec_reasm herr hstage
  exact ⟨_, hreasm, sameRegisters_commandResult s _, rfl, rfl, fun ch i u v => cell_reasm, fun sp a hout =>
    exec_cell_of_not_mem hreasm fun hmem => hout (mem_rect_llPlanes_iff.1 hmem)⟩

/-- Settles O39: a cell of the blocked part goes to its block and comes back, and no other subband cell is written. -/
theorem blockThenReasmRestoresTheSubbands : Obligations.BlockThenReasmRestoresTheSubbands := by
  intro s herr hstage
  have hblock := exec_block herr hstage
  have hreasm : exec .reasm (commandResult s .block) = _ := exec_reasm herr (.inl rfl)
  refine ⟨_, _, hblock, hreasm, rfl, fun ch b a => ?_⟩
  by_cases hmem : (.sub ch b, a) ∈ (commandWrites (commandResult s .block) .reasm).1
  · obtain ⟨ch', hsp, hr, hc⟩ := mem_rect_llPlanes_iff.1 hmem
    obtain ⟨rfl, rfl⟩ := Space.sub.inj hsp
    obtain ⟨i, u, v, hi, hu, hv, rfl⟩ := exists_tileCell_eq hr hc
    exact (cell_reasm hi hu hv).trans (cell_block hi hu hv)
  · calc _ = (commandResult s .block).cell (.sub ch b) a := exec_cell_of_not_mem hreasm hmem
      _ = s.cell (.sub ch b) a := exec_cell_of_not_destination hblock (by simp [destinations, blkSpaces]) a

end Sys2Proof.Machine
end

section
/-! PROOFS. The block codec commands (43_block_codec R167 to R171): the checks of BEMBED and BEXTRACT, the per-block
functions case by case of the decomposition, the cells the commands write, and DEGRADED, which never wraps. -/

namespace Sys2Proof.Machine

open Sys2Proof

/-! ### The checks -/

section
variable {s : State}

theorem State.wmLenOk_params_iff :
    s.wmLenOk params = true ↔ s.wmLen ≠ 0#32 ∧ s.wmLen.toNat ≤ params.maxWm := by
  rw [State.wmLenOk_iff, ne_eq, ne_eq, BitVec.toNat_eq]
  rfl

theorem State.not_wmLenOk_params_iff :
    s.wmLenOk params = false ↔ s.wmLen = 0#32 ∨ params.maxWm < s.wmLen.toNat := by
  rw [← Bool.not_eq_true, State.wmLenOk_params_iff, not_and_or, not_not, not_le]

variable (herr : s.err = none) (hstage : s.stage = .mapped)
include herr hstage

/-- A command of stage 5 whose body raises an error records it alone (46_control R232, 60_exceptions R253). -/
theorem exec_bembed_of_error {e : ErrCode} (h : bembedBody params s = .error e) :
    exec .bembed s = .next { s with err := some e } :=
  State.runBody_error herr (List.mem_singleton.2 hstage) h

theorem exec_bextract_of_error {e : ErrCode} (h : bextractBody params s = .error e) :
    exec .bextract s = .next { s with err := some e } :=
  State.runBody_error herr (List.mem_singleton.2 hstage) h

theorem exec_bembed (hlen : s.wmLenOk params = true) (hcap : s.wmLen.toNat ≤ s.nblocks) :
    exec .bembed s = .next (commandResult s .bembed) :=
  exec_of_bodyAccepts herr (List.mem_singleton.2 hstage) ⟨hlen, hcap⟩

theorem exec_bextract (hlen : s.wmLenOk params = true) (hblocks : s.nblocks ≠ 0) :
    exec .bextract s = .next (commandResult s .bextract) :=
  exec_of_bodyAccepts herr (List.mem_singleton.2 hstage) ⟨hlen, Nat.pos_of_ne_zero hblocks⟩

end

/-- Settles O24: the check of the length comes first, and each check that fails records its code alone. -/
theorem bembedChecksLengthThenCapacity : Obligations.BembedChecksLengthThenCapacity := by
  intro s herr hstage
  refine ⟨fun hbad => ?_, fun hne hmax hcap => ?_⟩
  · have hlen := State.not_wmLenOk_params_iff.2 hbad
    exact exec_bembed_of_error herr hstage (by rw [bembedBody, hlen]; rfl)
  · have hlen := State.wmLenOk_params_iff.2 ⟨hne, hmax⟩
    exact exec_bembed_of_error herr hstage (by rw [bembedBody, hlen]; exact if_pos hcap)

/-- Settles O25: the check of the length comes first, and each check that fails records its code alone. -/
theorem bextractChecksLengthThenBlocks : Obligations.BextractChecksLengthThenBlocks := by
  intro s herr hstage
  refine ⟨fun hbad => ?_, fun hne hmax hblocks => ?_⟩
  · have hlen := State.not_wmLenOk_params_iff.2 hbad
    exact exec_bextract_of_error herr hstage (by rw [bextractBody, hlen]; rfl)
  · have hlen := State.wmLenOk_params_iff.2 ⟨hne, hmax⟩
    exact exec_bextract_of_error herr hstage (by rw [bextractBody, hlen, hblocks]; rfl)

/-! ### The per-block functions -/

section
variable {P : Config.Params} {S1 S2 : Nat} {s2en : Bool} {B : Mat Word}

/-- Where svd4 gives nothing the block stays as it is (43_block_codec R167). -/
theorem embedBlock_of_none (h : P.svd4 (dct2 P.num cdct B) = none) (bit : Bool) :
    embedBlock P S1 S2 s2en B bit = (B, 1) := by
  rw [embedBlock, h]

theorem embedBlock_of_some {r : SvdResult} (h : P.svd4 (dct2 P.num cdct B) = some r) (bit : Bool) :
    embedBlock P S1 S2 s2en B bit
      = (dct3 P.num cdct (recompose P.num r.u (modulate P.num S1 S2 s2en bit r.s) r.v), 0) := by
  rw [embedBlock, h]

theorem embedBlock_count (bit : Bool) :
    (embedBlock P S1 S2 s2en B bit).2 = (P.svd4 (dct2 P.num cdct B)).isNone.toNat := by
  cases h : P.svd4 (dct2 P.num cdct B) with
  | none => rw [embedBlock_of_none h]; rfl
  | some r => rw [embedBlock_of_some h]; rfl

/-- Where svals4 gives nothing the bit is 0 (43_block_codec R168). -/
theorem extractBlock_of_none (h : P.svals4 (dct2 P.num cdct B) = none) :
    extractBlock P S1 S2 s2en B = (false, 1) := by
  rw [extractBlock, h]

theorem extractBlock_of_some {g : Fin 4 → Word} (h : P.svals4 (dct2 P.num cdct B) = some g) :
    extractBlock P S1 S2 s2en B
      = (if s2en then combine (qimDecode P.num (g 0) S1) (qimDecode P.num (g 1) S2) else qimDecode P.num (g 0) S1,
        0) := by
  rw [extractBlock, h]
  cases s2en <;> rfl

theorem extractBlock_count :
    (extractBlock P S1 S2 s2en B).2 = (P.svals4 (dct2 P.num cdct B)).isNone.toNat := by
  cases h : P.svals4 (dct2 P.num cdct B) with
  | none => rw [extractBlock_of_none h]; rfl
  | some g => rw [extractBlock_of_some h]; rfl

end

/-! ### DEGRADED -/

/-- A count of at most 1 per (block, channel) pair fits DEGRADED (10_state R33; log 26). -/
theorem toNat_ofNat_overPairs {s : State} {g : Ch → Nat → Nat} (hg : ∀ ch i, g ch i ≤ 1) :
    (BitVec.ofNat 32 (s.overPairs g)).toNat = s.overPairs g := by
  have hsum := overPairs_le (s := s) hg
  have hblocks := s.nblocks_le
  exact Nat.mod_eq_of_lt (by omega)

theorem degraded_bembed (s : State) :
    (commandResult s .bembed).degraded.toNat
      = s.overPairs fun ch i => (params.svd4 (dct2 params.num cdct (s.block ch i))).isNone.toNat :=
  (toNat_ofNat_overPairs fun _ _ => embedBlock_count_le _ _ _ _ _ _).trans
    (congrArg s.overPairs (funext fun _ => funext fun _ => embedBlock_count _))

theorem degraded_bextract (s : State) :
    (commandResult s .bextract).degraded.toNat
      = s.overPairs fun ch i => (params.svals4 (dct2 params.num cdct (s.block ch i))).isNone.toNat :=
  (toNat_ofNat_overPairs fun _ _ => extractBlock_count_le _ _ _ _ _).trans
    (congrArg s.overPairs (funext fun _ => funext fun _ => extractBlock_count))

/-! ### The cells -/

section
variable {s : State} {ch : Ch} {i : Nat}

theorem bembedCell_blkAt (P : Config.Params) (u v : Fin 4) :
    bembedCell P s (.blk ch) (blkAt i u v) = (s.embedOf P ch i).1 u v := by
  have hblock : blkAt i u v / 16 = i := by unfold blkAt; omega
  have hrow : Fin.ofNat 4 (blkAt i u v % 16 / 4) = u := Fin.ext (by simp only [blkAt, Fin.val_ofNat]; omega)
  have hcol : Fin.ofNat 4 (blkAt i u v % 4) = v := Fin.ext (by simp only [blkAt, Fin.val_ofNat]; omega)
  rw [bembedCell, hblock, hrow, hcol]

/-- BEMBED puts the new block in the place of the old one (43_block_codec R170). -/
theorem cell_bembed (hi : i < s.nblocks) (u v : Fin 4) :
    (commandResult s .bembed).cell (.blk ch) (blkAt i u v) = (s.embedOf params ch i).1 u v := by
  have hmem : (.blk ch, blkAt i u v) ∈ linear blkSpaces (16 * s.nblocks) :=
    mem_linear_blkSpaces_iff.2 ⟨ch, rfl, blkAt_lt hi u.isLt v.isLt⟩
  calc _ = bembedCell params s (.blk ch) (blkAt i u v) := (cell_commandResult s .bembed _ _).trans (if_pos hmem)
    _ = _ := bembedCell_blkAt params u v

/-- The three bits of a raw triple, and no others (20_memory R60). -/
theorem rawBits_spec : ∀ y cb cr : Bool,
    let w := Space.fit .raw (BitVec.ofNat 32 (y.toNat + 2 * cb.toNat + 4 * cr.toNat))
    w.toNat < 8 ∧ w.getLsbD 0 = y ∧ w.getLsbD 1 = cb ∧ w.getLsbD 2 = cr := by
  decide

/-- BEXTRACT puts the bit of each channel at its place in RAW (43_block_codec R171). -/
theorem cell_bextract (hi : i < s.nblocks) :
    ((commandResult s .bextract).cell .raw i).toNat < 8 ∧
      ∀ ch : Ch, ((commandResult s .bextract).cell .raw i).getLsbD ch.val = (s.extractOf params ch i).1 := by
  have hmem : (Space.raw, i) ∈ linear [.raw] s.nblocks := mem_linear.2 ⟨List.mem_singleton.2 rfl, hi⟩
  have hcell : (commandResult s .bextract).cell .raw i = Space.fit .raw (rawTriple params s i) :=
    (cell_commandResult s .bextract _ _).trans (if_pos hmem)
  obtain ⟨hlt, hy, hcb, hcr⟩ := rawBits_spec (s.extractOf params 0 i).1 (s.extractOf params 1 i).1
    (s.extractOf params 2 i).1
  rw [hcell]
  refine ⟨hlt, fun ch => ?_⟩
  match ch with
  | 0 => exact hy
  | 1 => exact hcb
  | 2 => exact hcr

end

/-! ### The statements -/

/-- Settles O43: each written cell is that of `embedBlock`, in its two cases. -/
theorem bembedEmbedsEveryBlock : Obligations.BembedEmbedsEveryBlock := by
  intro s herr hstage hne hmax hcap
  have hbembed := exec_bembed herr hstage (State.wmLenOk_params_iff.2 ⟨hne, hmax⟩) hcap
  refine ⟨_, hbembed, sameRegisters_commandResult s _, rfl, fun ch i u v hi => ⟨fun hnone => ?_, fun r hsome => ?_⟩,
    degraded_bembed s, fun sp a hout => exec_cell_of_not_mem hbembed fun hmem => hout (mem_linear_blkSpaces_iff.1 hmem)⟩
  · exact (cell_bembed hi u v).trans (congrArg (fun x => x.1 u v) (embedBlock_of_none (B := s.block ch i) hnone _))
  · exact (cell_bembed hi u v).trans (congrArg (fun x => x.1 u v) (embedBlock_of_some (B := s.block ch i) hsome _))

/-- Settles O44: each bit of a raw triple is that of `extractBlock`, in its two cases. -/
theorem bextractReadsEveryBlock : Obligations.BextractReadsEveryBlock := by
  intro s herr hstage hne hmax hblocks
  have hbextract := exec_bextract herr hstage (State.wmLenOk_params_iff.2 ⟨hne, hmax⟩) hblocks
  refine ⟨_, hbextract, sameRegisters_commandResult s _, rfl, fun i hi => ?_, degraded_bextract s, fun sp a hout =>
    exec_cell_of_not_mem hbextract fun hmem => hout ?_⟩
  · obtain ⟨hlt, hbits⟩ := cell_bextract hi
    refine ⟨hlt, fun ch => (hbits ch).trans ?_⟩
    cases h : params.svals4 (dct2 params.num cdct (s.block ch i)) with
    | none => exact congrArg Prod.fst (extractBlock_of_none h)
    | some g => exact congrArg Prod.fst (extractBlock_of_some h)
  · obtain ⟨hsp, ha⟩ := mem_linear.1 hmem
    exact ⟨List.mem_singleton.1 hsp, ha⟩

end Sys2Proof.Machine
end

section
/-! PROOFS. The quantiser over exact arithmetic (43_block_codec R165, R166, R172). In units of the step a number is a
cell and a place in it: embedding keeps the cell and moves to a quarter or three quarters of it, decoding asks whether
the place is beyond the middle. -/

namespace Sys2Proof.Machine

open Sys2Proof

/-! ### Cells and places -/

/-- The number at the place `r` of cell `n`, with step `S` (43_block_codec R165). -/
def qimPoint (S : Nat) (n : Int) (r : Rat) : Rat := (n + r) * S / 255

/-- The place in its cell of the value that carries a bit (43_block_codec R165). -/
def qimPlace (bit : Bool) : Rat := if bit then 3 / 4 else 1 / 4

/-- The cell of a number (43_block_codec R165). -/
def qimCell (sigma : Rat) (S : Nat) : Int := ⌊sigma * 255 / S⌋

theorem qimPlace_mem (bit : Bool) : 1 / 4 ≤ qimPlace bit ∧ qimPlace bit ≤ 3 / 4 := by
  cases bit <;> norm_num [qimPlace]

theorem exactArith_c255 : exactArith.c255 = 255 := div_one _

theorem exactArith_place (bit : Bool) :
    (if bit then exactArith.const 3 4 else exactArith.const 1 4) = qimPlace bit := by
  cases bit <;> simp [qimPlace, exactArith]

/-- Embedding keeps the cell and takes the place of the bit (43_block_codec R165). -/
theorem qimEmbed_exact (sigma : Rat) (S : Nat) (bit : Bool) :
    qimEmbed exactArith sigma S bit = qimPoint S (qimCell sigma S) (qimPlace bit) := by
  simp only [qimEmbed, exactArith_c255, exactArith_place]
  rfl

theorem qimDecode_exact (x : Rat) (S : Nat) :
    qimDecode exactArith x S = decide ((S : Rat) / 2 < x * 255 - S * ⌊x * 255 / S⌋) := by
  have htwo : exactArith.two = 2 := div_one _
  simp only [qimDecode, exactArith_c255, htwo]
  rfl

theorem qimPoint_sub (S : Nat) (n : Int) (x y : Rat) : qimPoint S n x - qimPoint S n y = (x - y) * S / 255 := by
  unfold qimPoint
  ring

section
variable {S : Nat} (hS : 1 ≤ S)
include hS

theorem qimPoint_strictMono (n : Int) : StrictMono (qimPoint S n) := fun x y hxy => by
  have hpos : (0 : Rat) < S := Nat.cast_pos.2 hS
  unfold qimPoint
  gcongr

/-- The decoder reads the place alone: 1 exactly beyond the middle of the cell (43_block_codec R166). -/
theorem qimDecode_qimPoint (n : Int) {r : Rat} (h0 : 0 ≤ r) (h1 : r < 1) :
    qimDecode exactArith (qimPoint S n r) S = decide (1 / 2 < r) := by
  have hpos : (0 : Rat) < S := Nat.cast_pos.2 hS
  have hscale : qimPoint S n r * 255 = (n + r) * S := div_mul_cancel₀ _ (by norm_num)
  have hfloor : ⌊(n + r) * S / S⌋ = n := by
    rw [mul_div_cancel_right₀ _ hpos.ne', Int.floor_intCast_add, Int.floor_eq_zero_iff.2 ⟨h0, h1⟩, add_zero]
  calc qimDecode exactArith (qimPoint S n r) S
      = decide ((1 / 2 : Rat) * S < r * S) := by rw [qimDecode_exact, hscale, hfloor]; ring_nf
    _ = decide (1 / 2 < r) := decide_eq_decide.2 (mul_lt_mul_iff_left₀ hpos)

/-- A change of a number by `d` moves its place by `255 * d / S` (43_block_codec R172). -/
theorem qimPoint_add (n : Int) (r d : Rat) : qimPoint S n r + d = qimPoint S n (r + 255 * d / S) := by
  have hpos : (0 : Rat) < S := Nat.cast_pos.2 hS
  unfold qimPoint
  field_simp
  ring

/-- A quarter of the step is a quarter of the cell (43_block_codec R172). -/
theorem quarterStep_eq : 255 * ((S : Rat) / 1020) / S = 1 / 4 := by
  have hpos : (0 : Rat) < S := Nat.cast_pos.2 hS
  field_simp
  norm_num

/-- Every number lies in its cell. -/
theorem qimCell_spec (sigma : Rat) :
    ∃ r, 0 ≤ r ∧ r < 1 ∧ sigma = qimPoint S (qimCell sigma S) r := by
  have hpos : (0 : Rat) < S := Nat.cast_pos.2 hS
  refine ⟨Int.fract (sigma * 255 / S), Int.fract_nonneg _, Int.fract_lt_one _, ?_⟩
  rw [qimPoint, qimCell, Int.floor_add_fract, div_mul_cancel₀ _ hpos.ne', mul_div_cancel_right₀ _ (by norm_num)]

end

/-! ### The statements -/

/-- Settles O46: the place moves by less than a quarter of the cell, so it stays on its side of the middle. -/
theorem quantiserToleratesAQuarterStep : Obligations.QuantiserToleratesAQuarterStep := by
  intro sigma delta S bit hS hdelta
  have hpos : (0 : Rat) < S := Nat.cast_pos.2 hS
  have hmove : |255 * delta / S| < 1 / 4 := by
    calc |255 * delta / S| = 255 * |delta| / S := by rw [abs_div, abs_mul, Nat.abs_cast, abs_of_pos (by norm_num)]
      _ < 255 * (S / 1020) / S := by gcongr
      _ = 1 / 4 := quarterStep_eq hS
  obtain ⟨hlow, hhigh⟩ := abs_lt.1 hmove
  rw [qimEmbed_exact, qimPoint_add hS]
  cases bit with
  | false =>
    have hplace : qimPlace false = 1 / 4 := rfl
    rw [hplace, qimDecode_qimPoint hS _ (by linarith) (by linarith), decide_eq_false_iff_not]
    linarith
  | true =>
    have hplace : qimPlace true = 3 / 4 := rfl
    rw [hplace, qimDecode_qimPoint hS _ (by linarith) (by linarith), decide_eq_true_iff]
    linarith

/-- Settles O47: from three quarters of the cell, a quarter down is its middle and a quarter up is the start of the
next one, and neither is beyond the middle. -/
theorem quantiserMarginCannotBeWidened : Obligations.QuantiserMarginCannotBeWidened := by
  intro sigma S hS
  have hplace : qimPlace true = 3 / 4 := rfl
  rw [qimEmbed_exact, hplace]
  generalize qimCell sigma S = n
  have hdown : qimPoint S n (3 / 4) - (S : Rat) / 1020 = qimPoint S n (1 / 2) := by
    unfold qimPoint
    ring
  have hup : qimPoint S n (3 / 4) + (S : Rat) / 1020 = qimPoint S (n + 1) 0 := by
    unfold qimPoint
    push_cast
    ring
  rw [hdown, hup, qimDecode_qimPoint hS n (by norm_num) (by norm_num),
    qimDecode_qimPoint hS (n + 1) (by norm_num) (by norm_num)]
  norm_num

/-- Settles O48: `sigma` and the embedded value are places of one cell, which is not negative because `sigma` is not. -/
theorem quantiserStaysInTheCell : Obligations.QuantiserStaysInTheCell := by
  intro sigma S bit hsigma hS
  have hpos : (0 : Rat) < S := Nat.cast_pos.2 hS
  obtain ⟨r, h0, h1, hr⟩ := qimCell_spec hS sigma
  obtain ⟨n, hn⟩ : ∃ n : Nat, qimCell sigma S = n :=
    Int.eq_ofNat_of_zero_le (Int.floor_nonneg.2 (by positivity))
  have hmono := qimPoint_strictMono hS n
  have hstart : (n : Rat) * S / 255 = qimPoint S n 0 := by simp [qimPoint]
  have hend : ((n : Rat) + 1) * S / 255 = qimPoint S n 1 := rfl
  obtain ⟨hlow, hhigh⟩ := qimPlace_mem bit
  rw [qimEmbed_exact, hn]
  rw [hn] at hr
  refine ⟨?_, n, ?_⟩
  · calc |qimPoint S n (qimPlace bit) - sigma| = |qimPlace bit - r| * S / 255 := by
          rw [hr, qimPoint_sub, abs_div, abs_mul, Nat.abs_cast, abs_of_pos (by norm_num : (0 : Rat) < 255)]
      _ ≤ 3 / 4 * S / 255 := by
          gcongr
          exact abs_le.2 ⟨by linarith, by linarith⟩
  · rw [hstart, hend, hr]
    exact ⟨hmono.monotone h0, hmono h1, hmono (by linarith), hmono (by linarith)⟩

end Sys2Proof.Machine
end

section
/-! PROOFS. The DCT pair (43_block_codec R160 to R162). Over a commutative ring the transforms are matrix products, so a
matrix with orthonormal columns gives the inverse law. The real DCT-II matrix and the one of the sixteen words have one
shape, with two numbers as parameters: the shape is orthogonal when their squares sum to 1/2, and two matrices of the
shape differ by what the parameters differ. -/

namespace Sys2Proof.Machine

open Sys2Proof

/-! ### The transforms as matrix products -/

section
variable {α : Type} [CommRing α] {N : Arith α} (hadd : ∀ a b, N.add a b = a + b) (hmul : ∀ a b, N.mul a b = a * b)
include hadd hmul

theorem of_matMul (a b : Mat α) : Matrix.of (matMul N a b) = Matrix.of a * Matrix.of b := by
  ext i j
  simp only [matMul, dot4, hadd, hmul, Matrix.of_apply, Matrix.mul_apply, Fin.sum_univ_four]

theorem of_dct2 (C B : Mat α) :
    Matrix.of (dct2 N C B) = Matrix.of C * Matrix.of B * (Matrix.of C).transpose := by
  unfold dct2
  rw [of_matMul hadd hmul, of_matMul hadd hmul]
  rfl

theorem of_dct3 (C D : Mat α) :
    Matrix.of (dct3 N C D) = (Matrix.of C).transpose * Matrix.of D * Matrix.of C := by
  unfold dct3
  rw [of_matMul hadd hmul, of_matMul hadd hmul]
  rfl

/-- The double sum of 43_block_codec R160. -/
theorem dct2_apply (C B : Mat α) (k l : Fin 4) : dct2 N C B k l = ∑ u, ∑ v, C k u * B u v * C l v := by
  rw [← Matrix.of_apply (dct2 N C B), of_dct2 hadd hmul, Matrix.mul_apply, Finset.sum_comm]
  simp only [Matrix.mul_apply, Matrix.transpose_apply, Matrix.of_apply, Finset.sum_mul]

/-- The double sum of 43_block_codec R161. -/
theorem dct3_apply (C D : Mat α) (u v : Fin 4) : dct3 N C D u v = ∑ k, ∑ l, C k u * D k l * C l v := by
  rw [← Matrix.of_apply (dct3 N C D), of_dct3 hadd hmul, Matrix.mul_apply, Finset.sum_comm]
  simp only [Matrix.mul_apply, Matrix.transpose_apply, Matrix.of_apply, Finset.sum_mul]

/-- The inverse law: the products cancel from both sides (43_block_codec R162). -/
theorem dct3_dct2 {C : Mat α} (hC : ∀ i j, ∑ k, C k i * C k j = if i = j then 1 else 0) (B : Mat α) :
    dct3 N C (dct2 N C B) = B := by
  have horth : (Matrix.of C).transpose * Matrix.of C = 1 := Matrix.ext fun i j => by
    rw [Matrix.mul_apply, Matrix.one_apply]
    exact hC i j
  refine Matrix.of.injective ?_
  calc Matrix.of (dct3 N C (dct2 N C B))
      = (Matrix.of C).transpose * (Matrix.of C * Matrix.of B * (Matrix.of C).transpose) * Matrix.of C := by
        rw [of_dct3 hadd hmul, of_dct2 hadd hmul]
    _ = ((Matrix.of C).transpose * Matrix.of C) * Matrix.of B * ((Matrix.of C).transpose * Matrix.of C) := by
        simp only [Matrix.mul_assoc]
    _ = Matrix.of B := by rw [horth, Matrix.one_mul, Matrix.mul_one]

end

/-! ### The shape of the DCT-II matrix -/

/-- The 4x4 DCT-II matrix with `p` for cos(pi/8)/sqrt(2) and `q` for cos(3pi/8)/sqrt(2) (43_block_codec R160). -/
def dctShape {α : Type} [Field α] (p q : α) : Mat α :=
  ![![1 / 2, 1 / 2, 1 / 2, 1 / 2], ![p, q, -q, -p], ![1 / 2, -(1 / 2), -(1 / 2), 1 / 2], ![q, -p, p, -q]]

theorem dctShape_orthonormal {p q : ℝ} (h : p ^ 2 + q ^ 2 = 1 / 2) (i j : Fin 4) :
    ∑ k, dctShape p q k i * dctShape p q k j = if i = j then 1 else 0 := by
  fin_cases i <;> fin_cases j <;> simp [Fin.sum_univ_four, dctShape] <;> linarith

/-- Two matrices of the shape differ in an entry by what its parameter differs, and the parameter is its magnitude. -/
theorem dctShape_entry (p q : Rat) (p' q' : ℝ) (k n : Fin 4) :
    (|dctShape p q k n| = 1 / 2 ∧ |((dctShape p q k n : Rat) : ℝ) - dctShape p' q' k n| = 0) ∨
    (|dctShape p q k n| = |p| ∧ |((dctShape p q k n : Rat) : ℝ) - dctShape p' q' k n| = |(p : ℝ) - p'|) ∨
    (|dctShape p q k n| = |q| ∧ |((dctShape p q k n : Rat) : ℝ) - dctShape p' q' k n| = |(q : ℝ) - q'|) := by
  fin_cases k <;> fin_cases n <;> simp [dctShape, neg_add_eq_sub, abs_sub_comm]

/-! ### The real matrix -/

/-- cos(m pi/8)/sqrt(2): the entries of the real DCT-II matrix below its first row (43_block_codec R160). -/
noncomputable def dctWave (m : ℝ) : ℝ := √(1 / 2) * Real.cos (m * Real.pi / 8)

theorem dctWave_reflect (m : ℝ) : dctWave (8 - m) = -dctWave m := by
  rw [dctWave, show (8 - m) * Real.pi / 8 = Real.pi - m * Real.pi / 8 by ring, Real.cos_pi_sub, mul_neg, dctWave]

theorem dctWave_shift (m : ℝ) : dctWave (8 + m) = -dctWave m := by
  rw [dctWave, show (8 + m) * Real.pi / 8 = m * Real.pi / 8 + Real.pi by ring, Real.cos_add_pi, mul_neg, dctWave]

theorem dctWave_sq (m : ℝ) : dctWave m ^ 2 = Real.cos (m * Real.pi / 8) ^ 2 / 2 := by
  rw [dctWave, mul_pow, Real.sq_sqrt (by norm_num)]
  ring

theorem dctWave_pos {m : ℝ} (h0 : 0 ≤ m) (h4 : m < 4) : 0 < dctWave m := by
  have hpi := Real.pi_pos
  exact mul_pos (by positivity) (Real.cos_pos_of_mem_Ioo ⟨by nlinarith, by nlinarith⟩)

theorem dctWave_one_sq : dctWave 1 ^ 2 = (2 + √2) / 8 := by
  rw [dctWave_sq, one_mul, Real.cos_pi_div_eight, div_pow, Real.sq_sqrt (by positivity)]
  ring

theorem dctWave_two : dctWave 2 = 1 / 2 := by
  have hsq : dctWave 2 ^ 2 = (1 / 2) ^ 2 := by
    rw [dctWave_sq, show 2 * Real.pi / 8 = Real.pi / 4 by ring, Real.cos_pi_div_four, div_pow,
      Real.sq_sqrt (by norm_num)]
    norm_num
  exact (pow_left_inj₀ (dctWave_pos (by norm_num) (by norm_num)).le (by norm_num) two_ne_zero).1 hsq

theorem dctWave_three_sq : dctWave 3 ^ 2 = (2 - √2) / 8 := by
  have hle : √2 ≤ 2 := Real.sqrt_le_iff.2 (by norm_num)
  rw [dctWave_sq, show 3 * Real.pi / 8 = Real.pi / 2 - Real.pi / 8 by ring, Real.cos_pi_div_two_sub,
    Real.sin_pi_div_eight, div_pow, Real.sq_sqrt (by linarith)]
  ring

/-- Below the first row every angle reduces to pi/8, 2pi/8 or 3pi/8 (43_block_codec R160). -/
theorem dctWave_eq_dctShape {k : Fin 4} (hk : k ≠ 0) (n : Fin 4) :
    dctWave ((2 * (n.val : ℝ) + 1) * k.val) = dctShape (dctWave 1) (dctWave 3) k n := by
  have h5 : dctWave 5 = -dctWave 3 := by rw [← dctWave_reflect]; norm_num
  have h6 : dctWave 6 = -dctWave 2 := by rw [← dctWave_reflect]; norm_num
  have h7 : dctWave 7 = -dctWave 1 := by rw [← dctWave_reflect]; norm_num
  have h9 : dctWave 9 = -dctWave 1 := by rw [← dctWave_shift]; norm_num
  have h10 : dctWave 10 = -dctWave 2 := by rw [← dctWave_shift]; norm_num
  have h14 : dctWave 14 = -dctWave 6 := by rw [← dctWave_shift]; norm_num
  have h15 : dctWave 15 = -dctWave 7 := by rw [← dctWave_shift]; norm_num
  have h21 : dctWave 21 = -dctWave 13 := by rw [← dctWave_shift]; norm_num
  have h13 : dctWave 13 = -dctWave 5 := by rw [← dctWave_shift]; norm_num
  fin_cases k
  · exact absurd rfl hk
  · fin_cases n <;> norm_num [dctShape, h5, h7]
  · fin_cases n <;> norm_num [dctShape, dctWave_two, h6, h10, h14]
  · fin_cases n <;> norm_num [dctShape, h5, h7, h9, h13, h15, h21]

/-- The real DCT-II matrix has the shape (43_block_codec R160). -/
theorem dctEntry_eq_dctShape (k n : Fin 4) :
    (if k = 0 then 1 / 2 else √(1 / 2)) * Real.cos ((2 * (n.val : ℝ) + 1) * k.val * Real.pi / 8)
      = dctShape (dctWave 1) (dctWave 3) k n := by
  by_cases hk : k = 0
  · subst hk
    fin_cases n <;> simp [dctShape]
  · rw [if_neg hk]
    exact dctWave_eq_dctShape hk n

/-! ### The sixteen words -/

theorem toRat_cdct (k n : Fin 4) : F32.toRat (cdct k n) = dctShape (10960245 / 2 ^ 24) (9079764 / 2 ^ 25) k n := by
  revert k n
  decide +kernel

/-- A positive number is within `eps` of `r` when its square lies between those of `r - eps` and `r + eps`. -/
theorem abs_sub_le_of_sq {x r eps : ℝ} (hx : 0 ≤ x) (hr : eps ≤ r) (heps : 0 ≤ eps) (hlow : (r - eps) ^ 2 ≤ x ^ 2)
    (hhigh : x ^ 2 ≤ (r + eps) ^ 2) : |r - x| ≤ eps := by
  have hlow' := (pow_le_pow_iff_left₀ (by linarith) hx two_ne_zero).1 hlow
  have hhigh' := (pow_le_pow_iff_left₀ hx (by linarith) two_ne_zero).1 hhigh
  exact abs_le.2 ⟨by linarith, by linarith⟩

theorem sqrt_two_bounds : (14142135623 / 10 ^ 10 : ℝ) ≤ √2 ∧ √2 ≤ 14142135624 / 10 ^ 10 :=
  ⟨Real.le_sqrt_of_sq_le (by norm_num), Real.sqrt_le_iff.2 (by norm_num)⟩

theorem abs_sub_dctWave_one : |(10960245 / 2 ^ 24 : ℝ) - dctWave 1| ≤ 1 / 2 ^ 25 := by
  obtain ⟨hlow, hhigh⟩ := sqrt_two_bounds
  refine abs_sub_le_of_sq (dctWave_pos (by norm_num) (by norm_num)).le (by norm_num) (by norm_num) ?_ ?_ <;>
    rw [dctWave_one_sq] <;> linarith

theorem abs_sub_dctWave_three : |(9079764 / 2 ^ 25 : ℝ) - dctWave 3| ≤ 1 / 2 ^ 26 := by
  obtain ⟨hlow, hhigh⟩ := sqrt_two_bounds
  refine abs_sub_le_of_sq (dctWave_pos (by norm_num) (by norm_num)).le (by norm_num) (by norm_num) ?_ ?_ <;>
    rw [dctWave_three_sq] <;> linarith

/-- Each word is within half a unit in its last place of the real entry (43_block_codec R160). -/
theorem abs_toRat_cdct_sub (k n : Fin 4) :
    |((F32.toRat (cdct k n) : Rat) : ℝ) - dctShape (dctWave 1) (dctWave 3) k n|
      ≤ if |F32.toRat (cdct k n)| < 1 / 2 then 1 / 2 ^ 26 else 1 / 2 ^ 25 := by
  rw [toRat_cdct]
  rcases dctShape_entry (10960245 / 2 ^ 24) (9079764 / 2 ^ 25) (dctWave 1) (dctWave 3) k n with
    ⟨habs, hdiff⟩ | ⟨habs, hdiff⟩ | ⟨habs, hdiff⟩ <;> rw [habs, hdiff]
  · norm_num
  · rw [if_neg (by norm_num [abs_of_pos])]
    push_cast
    exact abs_sub_dctWave_one
  · rw [if_pos (by norm_num [abs_of_pos])]
    push_cast
    exact abs_sub_dctWave_three

/-- Settles O45: the ring laws by matrix products, the real matrix and the words by their common shape; the table and
the sequences are the definitions. -/
theorem dctInvertsExactlyWhenOrthogonal : Obligations.DctInvertsExactlyWhenOrthogonal := by
  refine ⟨fun α _ N hadd hmul C B => ⟨dct2_apply hadd hmul C B, dct3_apply hadd hmul C B, fun hC =>
    dct3_dct2 hadd hmul hC B⟩, fun C hC => ?_, rfl, fun N C B i j => ⟨rfl, rfl⟩⟩
  obtain rfl : C = dctShape (dctWave 1) (dctWave 3) := funext fun k => funext fun n =>
    (hC k n).trans (dctEntry_eq_dctShape k n)
  have hsq : dctWave 1 ^ 2 + dctWave 3 ^ 2 = 1 / 2 := by
    rw [dctWave_one_sq, dctWave_three_sq]
    ring
  exact ⟨dctShape_orthonormal hsq, abs_toRat_cdct_sub⟩

end Sys2Proof.Machine
end

section
/-! PROOFS. The permutation statements (44_permutation R201 to R205): the cells PERMGEN writes, and the size of a group,
counted over PERM as a rearrangement of [0, NBLOCKS). -/

namespace Sys2Proof.Machine

open Sys2Proof

/-! ### PERMGEN -/

section
variable {P : Config.Params} {s : State} {i : Nat}

theorem permEntry_of_normal (h : s.mode.getLsbD 0 = false) : permEntry P s i = i :=
  if_neg (Bool.eq_false_iff.1 h)

theorem permEntry_of_strategy (hP : PermBij P.shuffle) (h : s.mode.getLsbD 0 = true) (hi : i < s.nblocks) :
    some (permEntry P s i) = (P.shuffle s.nblocks s.seed)[i]? := by
  obtain ⟨hlen, -, -⟩ := hP s.nblocks s.seed
  have hi' : i < (P.shuffle s.nblocks s.seed).length := hlen.symm ▸ hi
  calc some (permEntry P s i) = some ((P.shuffle s.nblocks s.seed).getD i 0) := congrArg some (if_pos h)
    _ = _ := by rw [List.getD_eq_getElem _ _ hi', List.getElem?_eq_getElem hi']

theorem mem_linear_perm_iff {n : Nat} {sp : Space} {a : Nat} : (sp, a) ∈ linear [.perm] n ↔ sp = .perm ∧ a < n := by
  rw [mem_linear, List.mem_singleton]

/-- PERMGEN puts f(i) in PERM[i]; a block number fits the word (44_permutation R201). -/
theorem permAt_permgen (hi : i < s.nblocks) : (commandResult s .permgen).permAt i = permEntry params s i := by
  have hlt := permEntry_lt (P := params) refShuffle_permBij hi
  have hblocks := s.nblocks_le
  have hcell : (commandResult s .permgen).cell .perm i = BitVec.ofNat 32 (permEntry params s i) :=
    (cell_commandResult s .permgen _ _).trans (if_pos (mem_linear_perm_iff.2 ⟨rfl, hi⟩))
  rw [State.permAt, hcell]
  exact Nat.mod_eq_of_lt (by omega)

end

/-- Settles O40: PERMGEN has no check of its own, and PERM[i] is `permEntry` in the two modes. -/
theorem permgenBuildsThePermutation : Obligations.PermgenBuildsThePermutation := by
  intro s herr hstage
  have hexec : exec .permgen s = .next (commandResult s .permgen) :=
    exec_of_bodyAccepts herr (List.mem_singleton.2 hstage) trivial
  refine ⟨_, hexec, sameRegisters_commandResult s _, rfl, rfl, fun hnormal i hi => ?_, fun hstrategy i hi => ?_,
    fun sp a hout => exec_cell_of_not_mem hexec fun hmem => hout (mem_linear_perm_iff.1 hmem)⟩
  · exact (permAt_permgen hi).trans (permEntry_of_normal hnormal)
  · exact (congrArg some (permAt_permgen hi)).trans (permEntry_of_strategy refShuffle_permBij hstrategy hi)

/-- Settles O41: the loop only exchanges entries of the list of 0 to n - 1. -/
theorem referenceShuffleIsABijection : Obligations.ReferenceShuffleIsABijection := refShuffle_permBij

/-! ### The groups -/

/-- A bijection of [0, NBLOCKS) lists the block numbers in another order. -/
theorem map_permAt_perm_range {s : State} (h : Safety.PermOk s) :
    ((List.range s.nblocks).map s.permAt).Perm (List.range s.nblocks) := by
  obtain ⟨hlt, hinj⟩ := h
  have hnodup : ((List.range s.nblocks).map s.permAt).Nodup :=
    List.nodup_range.map_on fun i hi j hj => hinj i j (List.mem_range.1 hi) (List.mem_range.1 hj)
  have hsubset : (List.range s.nblocks).map s.permAt ⊆ List.range s.nblocks := by
    intro x hx
    obtain ⟨i, hi, rfl⟩ := List.mem_map.1 hx
    exact List.mem_range.2 (hlt i (List.mem_range.1 hi))
  exact (List.subperm_of_subset hnodup hsubset).perm_of_length_le (by rw [List.length_map])

/-- The group of p is as large as the residue class of p in [0, NBLOCKS) (44_permutation R202, R203). -/
theorem length_group {s : State} (h : Safety.PermOk s) (p : Nat) :
    (s.group p).length = (List.range s.nblocks).countP (· % s.wmLenN == p) :=
  calc (s.group p).length = (List.range s.nblocks).countP fun i => s.permAt i % s.wmLenN == p :=
        List.countP_eq_length_filter.symm
    _ = ((List.range s.nblocks).map s.permAt).countP (· % s.wmLenN == p) := by
        rw [List.countP_map]
        rfl
    _ = _ := (map_permAt_perm_range h).countP_eq _

/-- The residue class of p < r in [0, n) has ceil((n - p) / r) members, and none when n ≤ p. -/
theorem countP_range_mod_eq {n r p : Nat} (hp : p < r) :
    (List.range n).countP (· % r == p) = (n - p + (r - 1)) / r := by
  have hr : 0 < r := by omega
  have hcount : (List.range n).countP (· % r == p) = n / r + if p < n % r then 1 else 0 := by
    have hmod := Nat.count_modEq_card n hr p
    rw [Nat.mod_eq_of_lt hp] at hmod
    rw [← hmod, Nat.count]
    exact List.countP_congr fun x _ => by simp [Nat.ModEq, Nat.mod_eq_of_lt hp]
  have hdiv := Nat.div_add_mod' n r
  have hlt := Nat.mod_lt n hr
  rw [hcount, eq_comm, Nat.div_eq_iff hr, Nat.add_mul]
  split
  · omega
  · omega

/-- Settles O42: PERM rearranges the block numbers, so the group is as large as a residue class. -/
theorem groupSizesOfABijection : Obligations.GroupSizesOfABijection := fun _ p hperm _ hp =>
  (length_group hperm p).trans (countP_range_mod_eq hp)

end Sys2Proof.Machine
end

section
/-! PROOFS. The vote decoder (45_vote R215 to R217): how the decision treats empty groups and ties, and the cells
VOTE writes. -/

namespace Sys2Proof.Machine

open Sys2Proof

/-! ### The decision -/

/-- A group that is not empty decides by majority, whatever VOTE_EMPTY is (45_vote R215). -/
theorem voteBit_of_pos {count : Nat} (h : 0 < count) (empty : Bool) (sum : Nat) :
    voteBit empty count sum = decide (3 * count ≤ 2 * sum) :=
  if_neg fun hzero => h.ne' (eq_of_beq hzero)

/-- With VOTE_EMPTY = 1 the rule of majority covers the empty group too: 0 votes of 0 are a tie (45_vote R216,
R217). -/
theorem voteBit_true (count sum : Nat) : voteBit true count sum = decide (3 * count ≤ 2 * sum) := by
  cases count with
  | zero => exact (decide_eq_true (Nat.zero_le _)).symm
  | succ n => exact voteBit_of_pos n.succ_pos true sum

/-- Settles O50: a tie makes 3 * count even and meets the threshold exactly. -/
theorem tiesDecodeToOne : Obligations.TiesDecodeToOne := by
  intro empty count sum hpos htie
  refine ⟨by omega, ?_, ?_⟩
  · rw [voteBit_of_pos hpos]
    exact decide_eq_true htie.ge
  · rw [voteBit_of_pos hpos]
    exact decide_eq_false (by omega)

/-! ### The cells of OUT -/

/-- VOTE writes position p of OUT, for p below WM_LEN (45_vote R215). -/
theorem mem_vote_writes_iff {s : State} {sp : Space} {a : Nat} :
    (sp, a) ∈ (commandWrites s .vote).1 ↔ sp = .out ∧ a < s.wmLen.toNat := by
  rw [commandWrites, mem_linear, List.mem_singleton, State.wmLenN]

/-- One bit fits a cell of OUT (20_memory R60). -/
theorem fit_out_toNat (b : Bool) : Space.fit .out (BitVec.ofNat 32 b.toNat) = if b then 1#32 else 0#32 := by
  cases b <;> rfl

/-- OUT[p] after VOTE, from count and sum of p, with the default VOTE_EMPTY (45_vote R215 to R217; log 16). -/
theorem cell_vote {s : State} {p : Nat} (hp : p < s.wmLen.toNat) :
    (commandResult s .vote).cell .out p = if 3 * (s.votes p).1 ≤ 2 * (s.votes p).2 then 1#32 else 0#32 :=
  calc (commandResult s .vote).cell .out p = Space.fit .out (voteCell params s p) :=
        (cell_commandResult s .vote _ _).trans (if_pos (mem_vote_writes_iff.2 ⟨rfl, hp⟩))
    _ = if voteBit true (s.votes p).1 (s.votes p).2 then 1#32 else 0#32 := fit_out_toNat _
    _ = _ := by simp only [voteBit_true, decide_eq_true_eq]

/-- Settles O49: VOTE has no check of its own, and the group and the sum of the statement are those of `votes`. -/
theorem voteDecidesEveryPosition : Obligations.VoteDecidesEveryPosition := by
  intro s herr hstage
  have hexec : exec .vote s = .next (commandResult s .vote) :=
    exec_of_bodyAccepts herr (List.mem_singleton.2 hstage) trivial
  exact ⟨_, hexec, sameRegisters_commandResult s _, rfl, rfl, fun _ hp => cell_vote hp,
    fun _ _ hout => exec_cell_of_not_mem hexec fun hmem => hout (mem_vote_writes_iff.1 hmem)⟩

end Sys2Proof.Machine
end

section
/-! PROOFS. Control (46_control R230 to R236): acceptance of a CMD write, the completion of a pending command, NOP and
RELEASE, the registers a command keeps, and the table of stages. -/

namespace Sys2Proof.Machine

open Sys2Proof

/-! ### Acceptance and completion -/

/-- Settles O9: with BUSY = 1 it is the CMD case of what a busy unit refuses, with BUSY = 0 the acceptance of any word. -/
theorem commandWriteIsAcceptedOrDropped : Obligations.CommandWriteIsAcceptedOrDropped :=
  fun _ w => ⟨fun hbusy => (hostWrite_of_busy hbusy 0x00#8 32 w).trans (if_pos ⟨rfl, rfl⟩),
    fun hidle => hostWrite_cmd_of_idle params hidle w⟩

/-- The unit's turn with a command pending that answers a next state (46_control R231). -/
theorem unitTurn_of_decodeWord {ex : Meaning} {s t : State} {i : Instr} (hbusy : s.busy = true)
    (hpend : decodeWord s.pend = .ok i) (h : ex i s = .next t) : s.unitTurn ex = .next { t with busy := false } := by
  rw [State.unitTurn, if_pos hbusy, State.complete_ok hpend, h, clearBusy]

/-- Settles O4: both positions of the unit's turn in the script lead to `State.unitTurn`. -/
theorem stepRunsThePendingCommand : Obligations.StepRunsThePendingCommand := by
  intro s i hbusy hpend
  constructor
  · intro hhost t h
    exact (step_of_nil hhost).trans (unitTurn_of_decodeWord hbusy hpend h)
  · intro rest hhost t h
    exact (step_of_cons hhost).trans (unitTurn_of_decodeWord (s := { s with host := rest }) hbusy hpend h)

/-! ### NOP and RELEASE -/

theorem exec_nop (s : State) : exec .nop s = .next s := rfl

theorem exec_release (s : State) : exec .release s = .next s.endRun := rfl

/-- Settles O18: word 0 is NOP, so its completion is that of O4 with the state itself as result. -/
theorem nopChangesNothing : Obligations.NopChangesNothing := by
  refine fun s => ⟨exec_nop s, fun hbusy hpend => ?_⟩
  have hnop : decodeWord s.pend = .ok .nop := hpend ▸ decodeWord_encode .nop
  obtain ⟨hempty, hunit⟩ := stepRunsThePendingCommand s .nop hbusy hnop
  exact ⟨fun rest hhost => hunit rest hhost _ (exec_nop _), fun hhost => hempty hhost s (exec_nop s)⟩

/-- Settles O19: RELEASE is `State.endRun`, with no check in front of it. -/
theorem releaseEndsTheRun : Obligations.ReleaseEndsTheRun := exec_release

/-! ### The registers -/

/-- Settles O52: a command that is not RELEASE changes ERR at most, or its result is built on the state before by
cells, STAGE and DEGRADED. -/
theorem commandsKeepTheRegisters : Obligations.CommandsKeepTheRegisters := by
  intro i s t hi h
  rcases exec_cases h with ⟨hrelease, -⟩ | ⟨e, rfl⟩ | ⟨-, -, -, rfl⟩
  · exact absurd hrelease hi
  · rfl
  · rfl

/-! ### The table of stages -/

/-- The stages are listed in the order of their codes (10_state R25). -/
theorem allStages_getElem?_code (g : Stage) : allStages[g.code.toNat]? = some g := by
  cases g <;> rfl

theorem Stage.code_injective : Function.Injective Stage.code := fun g h heq =>
  Option.some.inj ((allStages_getElem?_code g).symm.trans (heq ▸ allStages_getElem?_code h))

/-- The model's rows list the stages of the table by name. -/
theorem stageTable_stages (i : Instr) : (stageTable i).1 = (legalStages i).map Stage.code := by
  cases i <;> rfl

theorem stageTable_next (i : Instr) : (stageTable i).2.1 = (nextStage i).map Stage.code := by
  cases i <;> rfl

theorem code_mem_stageTable_iff {i : Instr} {g : Stage} : g.code ∈ (stageTable i).1 ↔ g ∈ legalStages i := by
  rw [stageTable_stages, List.mem_map_of_injective Stage.code_injective]

theorem code_nextStage_getD (i : Instr) (g : Stage) :
    ((nextStage i).getD g).code = (stageTable i).2.1.getD g.code := by
  rw [stageTable_next, Option.getD_map]

theorem mem_pair_of_two_checks {b c : Prop} [Decidable b] [Decidable c] {e x y : ErrCode}
    (h : (if b then some x else if c then some y else none) = some e) : e ∈ [x, y] := by
  split at h
  · cases h
    simp
  · split at h
    · cases h
      simp
    · cases h

/-- The checks of a command's body raise the errors of its row only (46_control R233, last column). -/
theorem bodyError_mem_stageTable {P : Config.Params} {s : State} {i : Instr} {e : ErrCode}
    (h : bodyError P s i = some e) : e ∈ (stageTable i).2.2 := by
  cases i with
  | cscFwd => exact mem_pair_of_two_checks h
  | bembed => exact mem_pair_of_two_checks h
  | bextract => exact mem_pair_of_two_checks h
  | _ => cases h

theorem mem_legalStages_release (g : Stage) : g ∈ legalStages .release := by
  cases g <;> decide

section
variable {i : Instr} {s : State} (herr : s.err = none)
include herr

/-- A command that leads to a phase with an error records the error and changes nothing else: by `exec_cases` its body
did not run. -/
theorem exec_of_phaseAfter_error (hi : i ≠ .release) {g : Stage} {e : ErrCode}
    (h : phaseAfter (bodyError params s) (s.stage, none) i = (g, some e)) :
    exec i s = .next { s with err := some e } := by
  obtain ⟨m, d, hexec⟩ := execWith_phase params s hi
  rw [← exec_eq_execWith, herr, h] at hexec
  rcases exec_cases hexec with ⟨hrelease, -⟩ | ⟨e', ht⟩ | ⟨-, -, -, ht⟩
  · exact absurd hrelease hi
  · have he : some e = e' := congrArg State.err ht
    rw [hexec, ht, he]
  · have he : some e = s.err := congrArg State.err ht
    exact absurd (he.trans herr) (Option.some_ne_none e)

theorem exec_of_illegal_stage (hstage : s.stage ∉ legalStages i) : exec i s = .next { s with err := some .stage } := by
  have hi : i ≠ .release := fun hi => hstage (hi ▸ mem_legalStages_release s.stage)
  exact exec_of_phaseAfter_error herr hi (if_neg hstage)

theorem exec_of_bodyError (hstage : s.stage ∈ legalStages i) {e : ErrCode} (h : bodyError params s i = some e) :
    exec i s = .next { s with err := some e } := by
  have hi : i ≠ .release := by
    rintro rfl
    cases h
  exact exec_of_phaseAfter_error herr hi (phaseAfter_of_error hstage h)

/-- A command in a legal stage whose body raises no error goes to the next stage of its row (46_control R233). -/
theorem exec_of_bodyError_none (hstage : s.stage ∈ legalStages i) (h : bodyError params s i = none) :
    ∃ t, exec i s = .next t ∧ t.err = none ∧ t.stage = (nextStage i).getD s.stage := by
  by_cases hi : i = .release
  · subst hi
    exact ⟨_, exec_release s, rfl, rfl⟩
  · obtain ⟨m, d, hexec⟩ := execWith_phase params s hi
    rw [← exec_eq_execWith, herr, phaseAfter_of_ok hstage h] at hexec
    exact ⟨_, hexec, rfl, rfl⟩

end

/-- Settles O20: the stage is checked against the row, then the errors of the body, and else the command completes. -/
theorem commandsFollowTheStageTable : Obligations.CommandsFollowTheStageTable := by
  intro i s herr
  rw [code_mem_stageTable_iff]
  refine ⟨exec_of_illegal_stage herr, fun hstage => ?_⟩
  cases hcheck : bodyError params s i with
  | some e => exact ⟨_, exec_of_bodyError herr hstage hcheck, .inr ⟨e, bodyError_mem_stageTable hcheck, rfl⟩⟩
  | none =>
    obtain ⟨t, hexec, hterr, htstage⟩ := exec_of_bodyError_none herr hstage hcheck
    exact ⟨t, hexec, .inl ⟨hterr, htstage ▸ code_nextStage_getD i s.stage⟩⟩

end Sys2Proof.Machine
end

section
/-! PROOFS. Exceptions and progress: no step is without an answer (70_reset_and_hazards R291), a failure changes ERR
alone (60_exceptions R253), and with an error recorded commands are refused and a step changes the port alone (R254). -/

namespace Sys2Proof.Machine

open Sys2Proof

/-! ### Every step answers a next state -/

theorem exec_answers_next (i : Instr) (s : State) : ∃ t, exec i s = .next t := by
  by_cases hi : i = .release
  · exact ⟨s.endRun, hi ▸ exec_release s⟩
  · obtain ⟨m, d, h⟩ := execWith_phase params s hi
    exact ⟨_, exec_eq_execWith ▸ h⟩

theorem unitTurn_answers_next (s : State) : ∃ t, s.unitTurn exec = .next t := by
  cases hbusy : s.busy with
  | false => exact ⟨s, unitTurn_of_idle hbusy exec⟩
  | true =>
    cases hword : decodeWord s.pend with
    | error e => exact ⟨_, unitTurn_of_illegal hbusy hword exec⟩
    | ok i =>
      obtain ⟨t, h⟩ := exec_answers_next i s
      exact ⟨_, unitTurn_of_decodeWord hbusy hword h⟩

/-- Settles O6: the turns of the host and the reset are total updates, and the unit's turn answers by the phase lemma of
the commands. -/
theorem everyStateHasANextState : Obligations.EveryStateHasANextState := by
  intro s
  cases hhost : s.host with
  | nil => exact step_of_nil hhost ▸ unitTurn_answers_next s
  | cons turn rest =>
    rw [step_of_cons hhost]
    cases turn with
    | unit => exact unitTurn_answers_next { s with host := rest }
    | _ => exact ⟨_, rfl⟩

/-! ### A failure changes ERR alone -/

/-- A recorded error refuses every command but RELEASE (60_exceptions R254): the phase stays, so by `exec_cases` no body
ran and ERR is what it was. -/
theorem exec_of_recorded_error {i : Instr} {s : State} (herr : s.err ≠ none) (hi : i ≠ .release) :
    exec i s = .next s := by
  obtain ⟨m, d, hexec⟩ := execWith_phase params s hi
  have hphase : phaseAfter (bodyError params s) (s.stage, s.err) i = (s.stage, s.err) := by
    obtain ⟨e, he⟩ := Option.ne_none_iff_exists'.1 herr
    rw [he, phaseAfter]
  rw [← exec_eq_execWith, hphase] at hexec
  rcases exec_cases hexec with ⟨hrelease, -⟩ | ⟨e, ht⟩ | ⟨hnone, -⟩
  · exact absurd hrelease hi
  · have he : s.err = e := congrArg State.err ht
    rw [hexec, ht, ← he]
  · exact absurd hnone herr

/-- A command that changes ERR has failed: it was not refused, and its body did not run (60_exceptions R253). -/
theorem exec_changes_err_alone {i : Instr} {s t : State} (hi : i ≠ .release) (h : exec i s = .next t)
    (hne : t.err ≠ s.err) : s.err = none ∧ t = { s with err := t.err } := by
  have herr : s.err = none := by
    by_contra hsome
    rw [exec_of_recorded_error hsome hi] at h
    exact hne (Host.Outcome.next.inj h ▸ rfl)
  refine ⟨herr, ?_⟩
  rcases exec_cases h with ⟨hrelease, -⟩ | ⟨e, rfl⟩ | ⟨-, -, -, rfl⟩
  · exact absurd hrelease hi
  · rfl
  · exact absurd rfl hne

theorem unitTurn_leaves_idle {s t : State} (h : s.unitTurn exec = .next t) : t.busy = false := by
  rcases unitTurn_cases h with ⟨hidle, rfl⟩ | ⟨-, ⟨e, rfl⟩ | ⟨i, u, -, rfl⟩⟩
  · exact hidle
  · rfl
  · rfl

/-- The unit moves when its turn heads the script and when the script is used up (log 4). -/
theorem step_of_unit_first {s : State} (h : s.host = [] ∨ s.host.head? = some .unit) :
    step s = (afterTurn s).unitTurn exec := by
  cases hhost : s.host with
  | nil => rw [step_of_nil hhost, afterTurn, hhost, List.tail_nil, ← hhost]
  | cons turn rest =>
    rw [hhost] at h
    obtain rfl : turn = .unit := by simpa using h
    rw [step_of_cons hhost, afterTurn, hhost, List.tail_cons, State.takeTurn]

/-- Settles O21: the laws of `fail`, the outcomes of a command, and the unit's turn, which ends with BUSY = 0. -/
theorem failureChangesOnlyTheErrorCode : Obligations.FailureChangesOnlyTheErrorCode :=
  ⟨fun _ e herr => State.fail_of_none herr e, fun _ e herr => State.fail_of_some herr e,
    fun _ _ _ => exec_changes_err_alone,
    fun _ _ _ hhost h => unitTurn_leaves_idle ((step_of_unit_first hhost).symm.trans h)⟩

/-! ### With an error recorded a step changes the port alone -/

/-- What R254 lets a step change: BUSY, PEND, OVR, ACC, PSEL and PADDR, beside the script and the returned word. -/
def portOnly (s t : State) : Prop :=
  t = { s with busy := t.busy, pend := t.pend, ovr := t.ovr, acc := t.acc, psel := t.psel, paddr := t.paddr,
               host := t.host, rdata := t.rdata }

/-- The offsets of the configuration registers and of PDATA: what the host writes in stage 0 (20_memory R61). -/
def inputOffsets : List (BitVec 8) := (configRegs ++ [Reg.pdata]).map Reg.offset

theorem offset_mem_inputOffsets {r : Reg} (hcmd : r ≠ .cmd) (hpsel : r ≠ .psel) (hpaddr : r ≠ .paddr)
    (hread : r ∉ readOnlyRegs) : r.offset ∈ inputOffsets := by
  cases r with
  | cmd => exact absurd rfl hcmd
  | psel => exact absurd rfl hpsel
  | paddr => exact absurd rfl hpaddr
  | _ => revert hread; decide

/-- A performed write reaches CMD, PSEL or PADDR, or an input while the inputs are open (20_memory R61, R65). -/
theorem target_of_writeOk {P : Config.Params} {s : State} {r : Reg} (h : s.writeOk P r = true) :
    r = .cmd ∨ r = .psel ∨ r = .paddr ∨ (s.inputsOpen P = true ∧ r.offset ∈ inputOffsets) := by
  by_contra! hr
  obtain ⟨hcmd, hpsel, hpaddr, hinput⟩ := hr
  have hopen : s.inputsOpen P = true := by
    by_contra hclosed
    rw [not_writeOk_of_inputsClosed (Bool.eq_false_of_not_eq_true hclosed) hcmd hpsel hpaddr] at h
    cases h
  have hread : r ∉ readOnlyRegs := fun hmem => by
    rw [not_writeOk_of_readOnly (cls_of_mem_readOnlyRegs r hmem)] at h
    cases h
  exact hinput hopen (offset_mem_inputOffsets hcmd hpsel hpaddr hread)

section
variable {P : Config.Params} {s : State}

theorem portOnly_hostRead (off : BitVec 8) (bits : Nat) (d : Word) :
    portOnly s { (s.hostRead P off bits).2 with rdata := d } := by
  rcases State.hostRead_cases P s off bits with ⟨r, -, -, h⟩ | ⟨-, h⟩ <;> rw [h] <;> rfl

theorem portOnly_accept (w : Word) : portOnly s (s.accept w) := by
  unfold State.accept
  split <;> rfl

/-- A host write that is not one of an input while the inputs are open changes the port alone. -/
theorem portOnly_hostWrite {off : BitVec 8} {bits : Nat}
    (hinput : s.inputsOpen P = true → bits = 32 → off ∉ inputOffsets) (w : Word) :
    portOnly s (s.hostWrite P off bits w) := by
  rcases State.hostWrite_cases P s off bits w with ⟨-, h⟩ | ⟨r, hcmd, hat, hok, h⟩ | ⟨-, h⟩
  · exact h ▸ portOnly_accept w
  · obtain ⟨hbits, rfl⟩ := regAt_eq_some_iff.1 hat
    rw [h]
    rcases target_of_writeOk hok with rfl | rfl | rfl | ⟨hopen, hoff⟩
    · exact absurd rfl hcmd
    · rfl
    · rfl
    · exact absurd hoff (hinput hopen hbits)
  · exact h ▸ rfl

theorem portOnly_poll : portOnly s s.poll := by
  unfold State.poll
  split <;> rfl

/-- With an error recorded and RELEASE not pending, the unit's turn does no more than clear BUSY (R254). -/
theorem unitTurn_of_recorded_error (herr : s.err ≠ none) (hrelease : s.busy = true → s.pend ≠ encode .release) :
    s.unitTurn exec = .next { s with busy := false } := by
  cases hbusy : s.busy with
  | false => rw [unitTurn_of_idle hbusy, ← hbusy]
  | true =>
    cases hword : decodeWord s.pend with
    | error e => rw [unitTurn_of_illegal hbusy hword, if_neg herr]
    | ok i =>
      have hi : i ≠ .release := by
        rintro rfl
        exact hrelease hbusy (encode_of_decodeWord hword)
      exact unitTurn_of_decodeWord hbusy hword (exec_of_recorded_error herr hi)

/-- Every turn but a reset changes the port alone, RELEASE and the writes of open inputs excepted (R254; log 24). -/
theorem portOnly_takeTurn {t : State} {turn : Turn} (herr : s.err ≠ none) (hreset : turn ≠ .reset)
    (hrelease : s.busy = true → s.pend ≠ encode .release)
    (hinput : s.inputsOpen P = true → ∀ off w, turn = .write off 32 w → off ∉ inputOffsets)
    (h : s.takeTurn P exec turn = .next t) : portOnly s t := by
  cases turn with
  | unit => exact Host.Outcome.next.inj ((unitTurn_of_recorded_error herr hrelease).symm.trans h) ▸ rfl
  | reset => exact absurd rfl hreset
  | read off bits => exact Host.Outcome.next.inj h ▸ portOnly_hostRead off bits _
  | write off bits w =>
    refine Host.Outcome.next.inj h ▸ portOnly_hostWrite (fun hopen hbits => ?_) w
    exact hinput hopen off w (hbits ▸ rfl)
  | wait => exact Host.Outcome.next.inj h ▸ portOnly_poll
  | fill sp v => exact Host.Outcome.next.inj h ▸ rfl

end

/-- Settles O22: a refused command does nothing, and a step is the unit's turn or the turn at the head of the script. -/
theorem recordedErrorRefusesCommands : Obligations.RecordedErrorRefusesCommands := by
  refine ⟨fun _ _ => exec_of_recorded_error, fun s t herr hstep hreset hrelease hinput => ?_⟩
  show portOnly s t
  cases hhost : s.host with
  | nil =>
    rw [step_of_nil hhost, unitTurn_of_recorded_error herr hrelease] at hstep
    exact Host.Outcome.next.inj hstep ▸ rfl
  | cons turn rest =>
    rw [step_of_cons hhost] at hstep
    have hturn : turn ≠ .reset := by
      rintro rfl
      exact hreset (hhost ▸ rfl)
    refine portOnly_takeTurn (s := { s with host := rest }) herr hturn hrelease (fun hopen off w hwrite => ?_) hstep
    obtain ⟨hstage, hnone | hlocks⟩ := inputsOpen_iff.1 hopen
    · exact absurd hnone herr
    · exact hinput hlocks hstage off w rest (hwrite ▸ hhost)

end Sys2Proof.Machine
end
